-- ==== Sys2Proof/Word.lean ====
section
/-! DEFINITION. The bus word, the byte lane, and the unit vectors the commands compute on. -/

namespace Sys2Proof

/-- One byte lane of the 32-bit bus (spec R55). -/
abbrev Byte := BitVec 8

/-- One register, buffer word or command word: 32 bits (spec R21, R56, R70). -/
abbrev Word := BitVec 32

/-- A unit vector: a finite sequence of non-negative integers (spec R13). -/
abbrev Units := List Nat

end Sys2Proof
end

