-- ==== Sys2Proof/Config.lean ====
section
/-! DEFINITION. What one FRE fixes and the free values: the digest port, the unknown base-256 table, the values
the spec leaves unspecified, and the constants of every FRE. -/

namespace Sys2Proof

/-- The four digest engines, in the order of their numbers 0, 1, 2, 3 (spec R10, R27, R116). -/
inductive Engine where
  | blake2b256
  | keccak256
  | sha256
  | sha3
  deriving DecidableEq, Repr

/-- The digest port's contract: an engine and a finite byte string give exactly 32 bytes (spec R10, R115). -/
abbrev DigestFn := Engine → List Byte → Vector Byte 32

/-- The three storages whose words the spec leaves unspecified until they are written (spec R54, U1, U3). -/
inductive Space where
  | key
  | ibuf
  | obuf
  deriving DecidableEq, Repr

/-- DIGEST, the model parameter of spec R9 and R10: nothing is assumed of it but that it is a function to 32 bytes
(log 5). -/
opaque Config.digest : DigestFn

/-- The content of an unwritten byte of a storage: the storage, the draw it belongs to, its byte address
(U1, U3; log 6). -/
opaque Config.freeByte : Space → Nat → Nat → Byte

/-- What a HOST read of a result register or of OBUF returns while busy, by draw (U2; log 7). -/
opaque Config.freeRead : Nat → Word

/-- How many further HOST events precede the ENGINE's step after an accept, by draw (U5; log 2). -/
opaque Config.freeLatency : Nat → Nat

/-- The base-256 table of the FRE, as far as nothing is known of it (U6; log 4). Machine/Parameters.lean keeps it
where it conforms. -/
opaque Config.rawTable : Units

/-- PAD_MARK, the padding marker U+0002 (spec R11, R105). -/
def Config.padMark : Nat := 2

/-- NEUTRAL, the neutral unit (spec R11). -/
def Config.neutral : Nat := 0

/-- The default capacities of spec R9 (log 3). -/
def Config.defaultIbufDepth : Nat := 1024
/-- See `Config.defaultIbufDepth`. -/
def Config.defaultObufDepth : Nat := 4096
/-- See `Config.defaultIbufDepth`. -/
def Config.defaultKeyDepth : Nat := 256
/-- See `Config.defaultIbufDepth`. -/
def Config.defaultNkeysMax : Nat := 16
/-- The default window base of spec R9 (log 3). -/
def Config.defaultBase : Nat := 0

end Sys2Proof
end

