-- ==== Sys2Proof/Syntax.lean ====
section
/-! DEFINITION. The commands, one constructor per row of spec/opcode_table.json. -/

namespace Sys2Proof

/-- Field M, the arithmetic mode (spec R71, R78). -/
inductive Mode where
  | cp
  | byte
  deriving DecidableEq, Repr

/-- Field F: raw (0), or the rendered form (1), which is text for the FPE commands and hex for DIGEST
(spec R71, R78). -/
inductive Form where
  | raw
  | rendered
  deriving DecidableEq, Repr

/-- Field W, the integer width (spec R71, R72). -/
inductive Width where
  | auto
  | two
  | four
  | eight
  deriving DecidableEq, Repr

/-- A configuration variant: field V of CONFIGURE and STATUS.CFG_VAR (spec R24, R72). -/
inductive Variant where
  | bal
  | mk
  | fpe
  deriving DecidableEq, Repr

/-- The command set FRE-CMD version 1 (spec R74, R75). -/
inductive Instr where
  | nop
  | configureBal
  | configureMk
  | configureFpe
  | extract (m : Mode)
  | add (m : Mode)
  | xor (m : Mode)
  | pad
  | unpad
  | digest (f : Form)
  | round (m : Mode)
  | b256Enc
  | b256Dec
  | balEnc
  | balDec
  | mkEnc
  | mkDec
  | fpeEnc (f : Form)
  | fpeDec (f : Form)
  | fpeEncStr (f : Form)
  | fpeDecStr (f : Form)
  | numEnc (w : Width)
  | numDec (w : Width)
  deriving DecidableEq, Repr

end Sys2Proof
end

