-- ==== Sys2Proof/WellFormed.lean ====
section
/-! DEFINITION. The fields of a command word and the legality of spec R73 and R76, as a check. -/

namespace Sys2Proof

/-- A command word cut into the fields of spec R71. -/
structure RawCmd where
  op : BitVec 8
  f : BitVec 1
  m : BitVec 1
  w : BitVec 2
  v : BitVec 2
  rsv : BitVec 18
  deriving DecidableEq, Repr

/-- Which optional fields an opcode lists in the map of spec R74. -/
structure Listed where
  f : Bool := false
  m : Bool := false
  w : Bool := false
  v : Bool := false
  deriving DecidableEq, Repr

/-- The opcode map of spec R74: the assigned OP values with the fields each lists. -/
def opcodeMap : List (Nat × Listed) :=
  [(0x00, {}), (0x01, { v := true }),
   (0x08, { m := true }), (0x09, { m := true }), (0x0A, { m := true }), (0x0B, {}), (0x0C, {}),
   (0x10, { f := true }), (0x11, { m := true }), (0x18, {}), (0x19, {}),
   (0x20, {}), (0x21, {}), (0x22, {}), (0x23, {}),
   (0x28, { f := true }), (0x29, { f := true }), (0x2A, { f := true }), (0x2B, { f := true }),
   (0x30, { w := true }), (0x31, { w := true })]

/-- Spec R76 (a): OP is assigned. -/
def RawCmd.opAssigned (r : RawCmd) : Bool := (opcodeMap.lookup r.op.toNat).isSome

/-- Spec R76 (b): RSV is zero. -/
def RawCmd.rsvZero (r : RawCmd) : Bool := r.rsv == 0

/-- Spec R76 (c), R73: every field that OP does not list is zero. -/
def RawCmd.unlistedZero (r : RawCmd) : Bool :=
  match opcodeMap.lookup r.op.toNat with
  | none => true
  | some l => (l.f || r.f == 0) && (l.m || r.m == 0) && (l.w || r.w == 0) && (l.v || r.v == 0)

/-- Spec R76 (d): CONFIGURE has a variant other than 11. -/
def RawCmd.variantOk (r : RawCmd) : Bool := !(r.op == 0x01 && r.v == 3)

/-- A legal command word (spec R76). -/
def RawCmd.legal (r : RawCmd) : Bool := r.opAssigned && r.rsvZero && r.unlistedZero && r.variantOk

/-- Field M of a mode (spec R78). -/
def Mode.bits : Mode → BitVec 1
  | .cp => 0
  | .byte => 1

/-- Field F of a form (spec R78). -/
def Form.bits : Form → BitVec 1
  | .raw => 0
  | .rendered => 1

/-- Field W of a width (spec R72, R78). -/
def Width.bits : Width → BitVec 2
  | .auto => 0
  | .two => 1
  | .four => 2
  | .eight => 3

/-- Field V, and the value of STATUS.CFG_VAR (spec R24, R72). -/
def Variant.bits : Variant → BitVec 2
  | .bal => 0
  | .mk => 1
  | .fpe => 2

/-- The fields a command is written with (spec R74, R75, R78). -/
def Instr.raw : Instr → RawCmd
  | .nop => ⟨0x00, 0, 0, 0, 0, 0⟩
  | .configureBal => ⟨0x01, 0, 0, 0, Variant.bal.bits, 0⟩
  | .configureMk => ⟨0x01, 0, 0, 0, Variant.mk.bits, 0⟩
  | .configureFpe => ⟨0x01, 0, 0, 0, Variant.fpe.bits, 0⟩
  | .extract m => ⟨0x08, 0, m.bits, 0, 0, 0⟩
  | .add m => ⟨0x09, 0, m.bits, 0, 0, 0⟩
  | .xor m => ⟨0x0A, 0, m.bits, 0, 0, 0⟩
  | .pad => ⟨0x0B, 0, 0, 0, 0, 0⟩
  | .unpad => ⟨0x0C, 0, 0, 0, 0, 0⟩
  | .digest f => ⟨0x10, f.bits, 0, 0, 0, 0⟩
  | .round m => ⟨0x11, 0, m.bits, 0, 0, 0⟩
  | .b256Enc => ⟨0x18, 0, 0, 0, 0, 0⟩
  | .b256Dec => ⟨0x19, 0, 0, 0, 0, 0⟩
  | .balEnc => ⟨0x20, 0, 0, 0, 0, 0⟩
  | .balDec => ⟨0x21, 0, 0, 0, 0, 0⟩
  | .mkEnc => ⟨0x22, 0, 0, 0, 0, 0⟩
  | .mkDec => ⟨0x23, 0, 0, 0, 0, 0⟩
  | .fpeEnc f => ⟨0x28, f.bits, 0, 0, 0, 0⟩
  | .fpeDec f => ⟨0x29, f.bits, 0, 0, 0, 0⟩
  | .fpeEncStr f => ⟨0x2A, f.bits, 0, 0, 0, 0⟩
  | .fpeDecStr f => ⟨0x2B, f.bits, 0, 0, 0, 0⟩
  | .numEnc w => ⟨0x30, 0, 0, w.bits, 0, 0⟩
  | .numDec w => ⟨0x31, 0, 0, w.bits, 0, 0⟩

/-- A command is well-formed when the fields it is written with are legal. Every value of every field of a
constructor is one the encoding admits, so each command is (Laws/PerInstr.lean). -/
def Instr.wf (i : Instr) : Bool := i.raw.legal

end Sys2Proof
end

