-- ==== Sys2Proof/Decode.lean ====
section
/-! DEFINITION. The decoder of a command word, total and rejecting by name, then the encoder. -/

namespace Sys2Proof

/-- Why a word selects no command: the four cases of spec R76. -/
inductive Illegal where
  /-- (a) OP is not in the opcode map. -/
  | unassignedOp
  /-- (b) RSV is not zero. -/
  | reservedBits
  /-- (c) a field that OP does not list is not zero. -/
  | unlistedField
  /-- (d) CONFIGURE with V = 11. -/
  | reservedVariant
  deriving DecidableEq, Repr

/-- The bit fields of spec R71. -/
def fieldsOf (w : Word) : RawCmd where
  op := w.extractLsb' 0 8
  f := w.extractLsb' 8 1
  m := w.extractLsb' 9 1
  w := w.extractLsb' 10 2
  v := w.extractLsb' 12 2
  rsv := w.extractLsb' 14 18

/-- Field M read as a mode (spec R72, R78). -/
def modeOf (b : BitVec 1) : Mode := if b = 0 then .cp else .byte

/-- Field F read as a form (spec R72, R78). -/
def formOf (b : BitVec 1) : Form := if b = 0 then .raw else .rendered

/-- Field W read as a width (spec R72). -/
def widthOf (b : BitVec 2) : Width :=
  if b = 0 then .auto else if b = 1 then .two else if b = 2 then .four else .eight

/-- An opcode that lists no field (spec R73, R75: mask 0xFFFF_FFFF). -/
def decodeNone (r : RawCmd) (i : Instr) : Except Illegal Instr :=
  if r.f = 0 ∧ r.m = 0 ∧ r.w = 0 ∧ r.v = 0 then .ok i else .error .unlistedField

/-- An opcode that lists F (mask 0xFFFF_FEFF). -/
def decodeF (r : RawCmd) (i : Form → Instr) : Except Illegal Instr :=
  if r.m = 0 ∧ r.w = 0 ∧ r.v = 0 then .ok (i (formOf r.f)) else .error .unlistedField

/-- An opcode that lists M (mask 0xFFFF_FDFF). -/
def decodeM (r : RawCmd) (i : Mode → Instr) : Except Illegal Instr :=
  if r.f = 0 ∧ r.w = 0 ∧ r.v = 0 then .ok (i (modeOf r.m)) else .error .unlistedField

/-- An opcode that lists W (mask 0xFFFF_F3FF). -/
def decodeW (r : RawCmd) (i : Width → Instr) : Except Illegal Instr :=
  if r.f = 0 ∧ r.m = 0 ∧ r.v = 0 then .ok (i (widthOf r.w)) else .error .unlistedField

/-- CONFIGURE, one row per legal V (spec R75, R76 (d)). -/
def decodeConfigure (r : RawCmd) : Except Illegal Instr :=
  if r.f = 0 ∧ r.m = 0 ∧ r.w = 0 then
    if r.v = 0 then .ok .configureBal
    else if r.v = 1 then .ok .configureMk
    else if r.v = 2 then .ok .configureFpe
    else .error .reservedVariant
  else .error .unlistedField

/-- The opcode map of spec R74 on a word's fields. -/
def decodeRaw (r : RawCmd) : Except Illegal Instr :=
  if r.rsv ≠ 0 then .error .reservedBits
  else match r.op.toNat with
    | 0x00 => decodeNone r .nop
    | 0x01 => decodeConfigure r
    | 0x08 => decodeM r .extract
    | 0x09 => decodeM r .add
    | 0x0A => decodeM r .xor
    | 0x0B => decodeNone r .pad
    | 0x0C => decodeNone r .unpad
    | 0x10 => decodeF r .digest
    | 0x11 => decodeM r .round
    | 0x18 => decodeNone r .b256Enc
    | 0x19 => decodeNone r .b256Dec
    | 0x20 => decodeNone r .balEnc
    | 0x21 => decodeNone r .balDec
    | 0x22 => decodeNone r .mkEnc
    | 0x23 => decodeNone r .mkDec
    | 0x28 => decodeF r .fpeEnc
    | 0x29 => decodeF r .fpeDec
    | 0x2A => decodeF r .fpeEncStr
    | 0x2B => decodeF r .fpeDecStr
    | 0x30 => decodeW r .numEnc
    | 0x31 => decodeW r .numDec
    | _ => .error .unassignedOp

/-- The decoder: every 32-bit word selects exactly one command or is illegal (spec R76, R77). -/
def decode (w : Word) : Except Illegal Instr := decodeRaw (fieldsOf w)

/-- The bit picture of spec R71, most significant field first. -/
def RawCmd.pack (r : RawCmd) : Word := r.rsv ++ r.v ++ r.w ++ r.m ++ r.f ++ r.op

/-- The encoder: the command word of a command (spec R74, R75, R78). -/
def encode (i : Instr) : Word := i.raw.pack

/-- The command that the low `nbits` bits of `w` stand for, bit 0 the least significant bit of the one command word
(spec R70: every command is exactly one 32-bit word). -/
def decodeTableWord (nbits w : Nat) : Option Instr :=
  match decode (BitVec.ofNat 32 (w % 2 ^ nbits)) with
  | .ok i => some i
  | .error _ => none

end Sys2Proof
end

