-- ==== Sys2Proof/Machine/Errors.lean ====
section
/-! DEFINITION. The error codes of a command and the command classes that decide its error writes. -/

namespace Sys2Proof.Machine

/-- The sixteen error codes of spec R172. -/
inductive ErrCode where
  | engineBad
  | keyEmpty
  | roundsLow
  | nkeysLow
  | lengthMismatch
  | ctOdd
  | ctBadChar
  | ctBadUtf8
  | magnitude
  | widthFit
  | illegalCmd
  | capacityIn
  | capacityOut
  | unencodable
  | badUnit
  | notConfigured
  deriving DecidableEq, Repr

/-- The value ERRCODE takes (spec R172). -/
def ErrCode.code : ErrCode → BitVec 8
  | .engineBad => 0x11
  | .keyEmpty => 0x12
  | .roundsLow => 0x13
  | .nkeysLow => 0x14
  | .lengthMismatch => 0x21
  | .ctOdd => 0x31
  | .ctBadChar => 0x32
  | .ctBadUtf8 => 0x33
  | .magnitude => 0x41
  | .widthFit => 0x42
  | .illegalCmd => 0xE0
  | .capacityIn => 0xE1
  | .capacityOut => 0xE2
  | .unencodable => 0xE3
  | .badUnit => 0xE4
  | .notConfigured => 0xE5

/-- The classes of spec R174, which decide what an error writes. -/
inductive CmdClass where
  | output
  | number
  | configure
  | illegal
  deriving DecidableEq, Repr

end Sys2Proof.Machine
end

