-- ==== Sys2Proof/Machine/Text.lean ====
section
/-! DEFINITION. Unicode scalar values, UTF-8 both ways, and hex rendering. -/

namespace Sys2Proof.Machine

/-- SCALAR(c), a Unicode scalar value (spec R15). -/
def isScalar (c : Nat) : Bool := c ≤ 0x10FFFF && !(0xD800 ≤ c && c ≤ 0xDFFF)

/-- The byte pattern of one code point (spec R102). -/
def utf8Char (c : Nat) : Units :=
  if c ≤ 0x7F then [c]
  else if c ≤ 0x7FF then [0xC0 ||| (c >>> 6), 0x80 ||| (c &&& 0x3F)]
  else if c ≤ 0xFFFF then [0xE0 ||| (c >>> 12), 0x80 ||| ((c >>> 6) &&& 0x3F), 0x80 ||| (c &&& 0x3F)]
  else [0xF0 ||| (c >>> 18), 0x80 ||| ((c >>> 12) &&& 0x3F), 0x80 ||| ((c >>> 6) &&& 0x3F), 0x80 ||| (c &&& 0x3F)]

/-- UTF8(v): encodes a code-point vector, 0xE3 on a value that is no scalar (spec R102). -/
def utf8 : Units → Except ErrCode Units
  | [] => .ok []
  | c :: cs => if isScalar c then (utf8 cs).map (utf8Char c ++ ·) else .error .unencodable

/-- A UTF-8 continuation byte. -/
def isCont (b : Nat) : Bool := 0x80 ≤ b && b ≤ 0xBF

/-- Strict UTF-8 decoding: the vector of scalar values that encodes to `b`, if there is one (spec R103: stray and
truncated sequences, overlong forms, surrogates and values above 0x10FFFF have none). -/
def utf8DecOpt : Units → Option Units
  | [] => some []
  | b0 :: t0 =>
    if b0 ≤ 0x7F then (utf8DecOpt t0).map (b0 :: ·)
    else match t0 with
      | [] => none
      | b1 :: t1 =>
        if 0xC2 ≤ b0 && b0 ≤ 0xDF then
          if isCont b1 then (utf8DecOpt t1).map ((((b0 &&& 0x1F) <<< 6) ||| (b1 &&& 0x3F)) :: ·) else none
        else match t1 with
          | [] => none
          | b2 :: t2 =>
            if 0xE0 ≤ b0 && b0 ≤ 0xEF then
              let c := ((b0 &&& 0x0F) <<< 12) ||| ((b1 &&& 0x3F) <<< 6) ||| (b2 &&& 0x3F)
              if isCont b1 && isCont b2 && 0x800 ≤ c && isScalar c then (utf8DecOpt t2).map (c :: ·) else none
            else match t2 with
              | [] => none
              | b3 :: t3 =>
                if 0xF0 ≤ b0 && b0 ≤ 0xF4 then
                  let c := ((b0 &&& 0x07) <<< 18) ||| ((b1 &&& 0x3F) <<< 12) ||| ((b2 &&& 0x3F) <<< 6) ||| (b3 &&& 0x3F)
                  if isCont b1 && isCont b2 && isCont b3 && 0x10000 ≤ c && isScalar c then
                    (utf8DecOpt t3).map (c :: ·)
                  else none
                else none
termination_by structural b => b

/-- UTF8DEC(b): 0x33 where `b` is not UTF-8 (spec R103). -/
def utf8Dec (b : Units) : Except ErrCode Units :=
  match utf8DecOpt b with
  | some v => .ok v
  | none => .error .ctBadUtf8

/-- DIGIT(x), a lowercase hexadecimal digit code (spec R118). -/
def hexDigit (x : Nat) : Nat := if x ≤ 9 then 0x30 + x else 0x61 + (x - 10)

/-- HEX(d): 64 digit codes, high nibble first (spec R118). -/
def hex (d : Vector Byte 32) : Units :=
  d.toList.flatMap fun b => [hexDigit (b.toNat >>> 4), hexDigit (b.toNat &&& 0xF)]

end Sys2Proof.Machine
end

