-- ==== Sys2Proof/Machine/Parameters.lean ====
section
/-! DEFINITION. The parameters of one FRE (spec R9): their legal ranges, what a conforming base-256 table is, and
the values State.reset takes. -/

namespace Sys2Proof.Machine

/-- The nine entries of the table that spec R126 (c) fixes. -/
def pinnedEntries : List (Nat × Nat) :=
  [(2, 0x23), (7, 0x28), (9, 0x2A), (20, 0x35), (42, 0x4B), (79, 0x71), (80, 0x72), (90, 0x7C), (93, 0xA1)]

/-- A control character, which spec R126 (b) keeps out of the table (spec R132; log 21: DEDUCED). -/
def isControl (c : Nat) : Bool := c < 0x20 || (0x7F ≤ c && c ≤ 0x9F)

/-- A conforming B256_TABLE (spec R126): 256 distinct scalar values, none a control character, with the nine fixed
entries. -/
abbrev tableOk (t : Units) : Prop :=
  t.length = 256 ∧ t.Nodup ∧ (∀ c ∈ t, isScalar c = true ∧ isControl c = false) ∧
    ∀ e ∈ pinnedEntries, t[e.1]? = some e.2

/-- The candidate T_c of 93_implementation_defined.md G4: one conforming table. It stands only where the unknown
table would not conform, so that the table is a conforming one and nothing more is known of it (log 4). -/
def candidateTable : Units :=
  (List.range 63).map (0x21 + ·) ++ (List.range' 63 30).map (0x22 + ·) ++
  (List.range' 0xA1 12) ++ (List.range' 0xAE 82) ++ List.range' 0x100 69

/-- B256_TABLE of this FRE: an unknown conforming table (spec R125, U6; log 4). -/
def b256Table : Units := if tableOk Config.rawTable then Config.rawTable else candidateTable

/-- The parameters of spec R9 that are data. DIGEST is `Config.digest`. -/
structure Params where
  base : Nat
  ibufDepth : Nat
  obufDepth : Nat
  keyDepth : Nat
  nkeysMax : Nat
  b256 : Units
  deriving DecidableEq, Repr

/-- The legal ranges of spec R9, and a conforming table. -/
abbrev Params.legal (p : Params) : Prop :=
  0x10000 ∣ p.base ∧ (1 ≤ p.ibufDepth ∧ p.ibufDepth ≤ 4096) ∧ (32 ≤ p.obufDepth ∧ p.obufDepth ≤ 8192) ∧
    (1 ≤ p.keyDepth ∧ p.keyDepth ≤ 1024) ∧ (2 ≤ p.nkeysMax ∧ p.nkeysMax ≤ 255) ∧ tableOk p.b256

/-- The FRE that State.reset is: R9's defaults and an unknown conforming table (log 3, log 4). -/
def defaultParams : Params where
  base := Config.defaultBase
  ibufDepth := Config.defaultIbufDepth
  obufDepth := Config.defaultObufDepth
  keyDepth := Config.defaultKeyDepth
  nkeysMax := Config.defaultNkeysMax
  b256 := b256Table

end Sys2Proof.Machine
end

