-- ==== Sys2Proof/Machine/State.lean ====
section
/-! DEFINITION. The machine's state as plain data, its value after reset, and the reasons a step can stop. -/

namespace Sys2Proof.Machine

/-- What the outside world does to the FRE, one event each (spec R8, R79, R80, R190; log 1). A width in bytes stands in
an access, so that the accesses spec R59 does not admit can be presented too. -/
inductive HostOp where
  /-- MemRead(addr, bytes). -/
  | read (addr bytes : Nat)
  /-- MemWrite(addr, bytes, v). -/
  | write (addr bytes : Nat) (v : Word)
  /-- The `wait` loop: read STATUS until BUSY = 0 (spec R79). -/
  | wait
  /-- `readout`: read OLEN, then as many OBUF words as the value read says (spec R80). -/
  | readOut
  /-- The platform drives the reset input to this level (spec R190). -/
  | rst (level : Bool)
  deriving DecidableEq, Repr

/-- What the bus answers a HOST access with (log 16). -/
inductive BusReply where
  /-- The value of a read. -/
  | data (w : Word)
  /-- A write was taken by the bus (whether the FRE honoured or ignored it). -/
  | ack
  /-- The access came while `rst` was asserted and was not admitted (spec R190, U12). -/
  | dropped
  deriving DecidableEq, Repr

/-- STATUS, field by field (spec R24). Its reserved bits read as 0 and are not stored. -/
structure Status where
  busy : Bool
  done : Bool
  err : Bool
  ovr : Bool
  cfgValid : Bool
  cfgVar : Variant
  deriving DecidableEq, Repr

/-- Memory: address and byte pairs, addresses strictly rising. An address with no pair holds no written value. -/
abbrev Memory := List Host.Cell

/-- The whole state. The fields from `params` to `obuf` are the spec's (R18, R21, R24, R40 to R42, R9); the rest
are the model's own (log 1, 2, 6, 15, 16) and the level of the `rst` input (R190). -/
structure State where
  /-- The parameters: the capability registers' contents, the window's base, the codec ROM (R9, R39, R130). -/
  params : Params
  /-- CTRL.IRQ_EN (R23). -/
  irqEn : Bool
  /-- STATUS (R24). -/
  status : Status
  /-- ERRCODE.CODE (R25). -/
  errCode : BitVec 8
  /-- CMD, the last accepted command word (R26). -/
  cmd : Word
  /-- ENGINE (R27). -/
  engine : BitVec 8
  /-- ROUNDS (R28). -/
  rounds : Word
  /-- NKEYS (R29). -/
  nkeys : BitVec 8
  /-- KEYSEL (R30). -/
  keySel : BitVec 8
  /-- KEYLEN[k] for k below NKEYS_MAX (R31). -/
  keyLen : List (BitVec 16)
  /-- ILEN (R32). -/
  ilen : BitVec 16
  /-- OLEN (R33). -/
  olen : BitVec 16
  /-- ARG0 (R34). -/
  arg0 : Word
  /-- ARG1 (R34). -/
  arg1 : Word
  /-- NUM_IN0 (R35). -/
  numIn0 : Word
  /-- NUM_IN1 (R35). -/
  numIn1 : Word
  /-- NUM_IN2 (R35). -/
  numIn2 : Word
  /-- NUM_IN3 (R35). -/
  numIn3 : Word
  /-- NUM_OUT0 (R36). -/
  numOut0 : Word
  /-- NUM_OUT1 (R36). -/
  numOut1 : Word
  /-- NUM_WIDTH (R37). -/
  numWidth : BitVec 4
  /-- KEY[k][j], the written words, at byte address 2^18 k + 4 j (R40; log 12). -/
  key : Memory
  /-- IBUF[j], the written words, at byte address 4 j (R41; log 12). -/
  ibuf : Memory
  /-- OBUF[j], the written words, at byte address 4 j (R42; log 12). -/
  obuf : Memory
  /-- The level of the reset input (R190). -/
  rst : Bool
  /-- The draw the unwritten KEY and IBUF words come from (U1). -/
  memEpoch : Nat
  /-- The draw the unwritten OBUF words come from (U1, U3). -/
  obufEpoch : Nat
  /-- The number of the next draw of a free value. -/
  draws : Nat
  /-- How many events of `hostQueue` still precede the ENGINE's step (U5). -/
  engineDelay : Nat
  /-- The events to come, first first. -/
  hostQueue : List HostOp
  /-- The bus's answers, newest first. -/
  hostLog : List BusReply
  deriving DecidableEq, Repr

/-- Why a run stops. -/
inductive Fault where
  /-- Raised by a HOST access that is not 32 bits wide or not at a multiple of 4: spec R59 and U4 call it a HOST
  fault, and the FRE's state is unchanged. Safe (log 9). Not raised while `rst` is asserted (log 26). -/
  | busError
  /-- Raised by a HOST access outside the window, which the FRE does not decode (spec R62). Safe (log 10). Not
  raised while `rst` is asserted (log 26). -/
  | outsideWindow
  deriving DecidableEq, Repr

/-- Why a step has no meaning. -/
inductive Refusal where
  /-- Raised by an arm of `exec` whose command has no meaning yet. Safe. No arm raises it. -/
  | notModelled (mnemonic : String)
  deriving DecidableEq, Repr

/-- The outcome of a step of this machine. -/
abbrev Outcome := Host.Outcome State Fault Refusal

/-- STATUS after reset (spec R54). -/
def Status.reset : Status where
  busy := false
  done := false
  err := false
  ovr := false
  cfgValid := false
  cfgVar := .bal

/-- The state right after hardware reset (spec R54, R190) of the FRE with `defaultParams`, with no event to come.
The last seven fields and the parameters are the model's choice (log 3, 4, 11, 15). -/
def State.reset : State where
  params := defaultParams
  irqEn := false
  status := .reset
  errCode := 0
  cmd := 0
  engine := 0xFF
  rounds := 0
  nkeys := 0
  keySel := 0
  keyLen := List.replicate defaultParams.nkeysMax 0
  ilen := 0
  olen := 0
  arg0 := 0
  arg1 := 0
  numIn0 := 0
  numIn1 := 0
  numIn2 := 0
  numIn3 := 0
  numOut0 := 0
  numOut1 := 0
  numWidth := 0
  key := []
  ibuf := []
  obuf := []
  rst := false
  memEpoch := 0
  obufEpoch := 0
  draws := 1
  engineDelay := 0
  hostQueue := []
  hostLog := []

end Sys2Proof.Machine
end

