-- ==== Sys2Proof/Machine/Flags.lean ====
section
/-! DEFINITION. The flags: STATUS as a word, what accept, completion and W1C do to it, and the interrupt line. -/

namespace Sys2Proof.Machine

/-- STATUS.CFG_VAR: 0 BAL, 1 MK, 2 FPE (spec R24). -/
def cfgVarBits : Variant → BitVec 2
  | .bal => 0
  | .mk => 1
  | .fpe => 2

/-- STATUS as the HOST reads it (spec R24): CFG_VAR [6:5], CFG_VALID [4], OVR [3], ERR [2], DONE [1], BUSY [0], the
rest 0. -/
def Status.word (st : Status) : Word :=
  (0 : BitVec 25) ++ cfgVarBits st.cfgVar ++ BitVec.ofBool st.cfgValid ++ BitVec.ofBool st.ovr ++
    BitVec.ofBool st.err ++ BitVec.ofBool st.done ++ BitVec.ofBool st.busy

/-- The flags after an accept (spec R45). -/
def Status.accept (st : Status) : Status := { st with busy := true, done := false, err := false }

/-- The flags after a completion without error (spec R46). -/
def Status.complete (st : Status) : Status := { st with busy := false, done := true }

/-- The flags after a completion with an error (spec R46). -/
def Status.completeErr (st : Status) : Status := { st with busy := false, done := true, err := true }

/-- A write of `v` to STATUS: a 1 clears DONE, ERR and OVR; the other bits ignore it (spec R24). -/
def Status.w1c (st : Status) (v : Word) : Status :=
  { st with done := st.done && !v.getLsbD 1, err := st.err && !v.getLsbD 2, ovr := st.ovr && !v.getLsbD 3 }

/-- CFG_VALID <- 0; CFG_VAR <- 0 (spec R47, R94). -/
def Status.clearConfig (st : Status) : Status := { st with cfgValid := false, cfgVar := .bal }

/-- CFG_VALID <- 1; CFG_VAR <- V (spec R93). -/
def Status.latch (st : Status) (v : Variant) : Status := { st with cfgValid := true, cfgVar := v }

/-- OVR <- 1 (spec R44). -/
def Status.overrun (st : Status) : Status := { st with ovr := true }

/-- The interrupt output, a level (spec R48, R178). -/
def State.irq (s : State) : Bool := s.irqEn && s.status.done

/-- CTRL as the HOST reads it: SRST reads 0, IRQ_EN is bit 1, the rest 0 (spec R23). -/
def State.ctrlWord (s : State) : Word := (0 : BitVec 30) ++ BitVec.ofBool s.irqEn ++ (0 : BitVec 1)

end Sys2Proof.Machine
end

