-- ==== Sys2Proof/Machine/Ops.lean ====
section
/-! DEFINITION. The named operations over the memories and registers: words in byte memory, the unspecified words,
reset, accept, completion, and taking an error with the ways back from it. -/

namespace Sys2Proof.Machine

/-! ## Byte memory -/

/-- The canonical form: addresses strictly rising. What an unlisted address holds is `none`, no written value, so no
entry equals it. -/
abbrev Memory.wf (m : Memory) : Prop := m.Pairwise (fun x y => x.1 < y.1)

/-- The byte written at an address, if any. -/
def Memory.readByte : Memory → Nat → Option Byte
  | [], _ => none
  | c :: m, a => if c.1 = a then some c.2 else Memory.readByte m a

/-- Writes a byte, keeping the addresses rising. -/
def Memory.writeByte : Memory → Nat → Byte → Memory
  | [], a, b => [(a, b)]
  | c :: m, a, b =>
    if a < c.1 then (a, b) :: c :: m
    else if a = c.1 then (a, b) :: m
    else c :: Memory.writeByte m a b

/-- The word at byte address `a`: lane `a + k` carries bits [8k+7:8k] (spec R55). `unl` is what an unlisted address
reads as. -/
def Memory.readWord (m : Memory) (unl : Nat → Byte) (a : Nat) : Word :=
  (m.readByte (a + 3)).getD (unl (a + 3)) ++ (m.readByte (a + 2)).getD (unl (a + 2)) ++
    (m.readByte (a + 1)).getD (unl (a + 1)) ++ (m.readByte a).getD (unl a)

/-- Writes the four lanes of a word (spec R55, R60). -/
def Memory.writeWord (m : Memory) (a : Nat) (w : Word) : Memory :=
  (((m.writeByte a (w.extractLsb' 0 8)).writeByte (a + 1) (w.extractLsb' 8 8)).writeByte (a + 2)
    (w.extractLsb' 16 8)).writeByte (a + 3) (w.extractLsb' 24 8)

/-- Writes a unit vector, one element a word, zero-extended, from byte address `a` up (spec R56). -/
def Memory.writeUnits : Memory → Nat → Units → Memory
  | m, _, [] => m
  | m, a, v :: vs => Memory.writeUnits (m.writeWord a (BitVec.ofNat 32 v)) (a + 4) vs

/-! ## The three storages -/

/-- Where word j of key slot k stands in `State.key`: a bank of 2^16 words for each slot (log 12). -/
def keyAddr (k j : Nat) : Nat := 0x40000 * k + 4 * j

/-- What an unwritten byte of a storage reads as (U1, U3; log 6). -/
def State.unwritten (s : State) (sp : Space) (a : Nat) : Byte :=
  match sp with
  | .key => Config.freeByte .key s.memEpoch a
  | .ibuf => Config.freeByte .ibuf s.memEpoch a
  | .obuf => Config.freeByte .obuf s.obufEpoch a

/-- KEY[k][j] (spec R40). -/
def State.keyWord (s : State) (k j : Nat) : Word := s.key.readWord (s.unwritten .key) (keyAddr k j)

/-- IBUF[j] (spec R41). -/
def State.ibufWord (s : State) (j : Nat) : Word := s.ibuf.readWord (s.unwritten .ibuf) (4 * j)

/-- OBUF[j] (spec R42). -/
def State.obufWord (s : State) (j : Nat) : Word := s.obuf.readWord (s.unwritten .obuf) (4 * j)

/-- KEYLEN[k]: 0 for a slot that does not exist (spec R31). -/
def State.keyLenOf (s : State) (k : Nat) : BitVec 16 := s.keyLen.getD k 0

/-! ## Free values -/

/-- Moves on to the next draw. -/
def State.draw (s : State) : State := { s with draws := s.draws + 1 }

/-! ## Output -/

/-- Every OBUF word becomes unspecified, each drawn anew (spec R42, R174, U3). -/
def State.clearObuf (s : State) : State :=
  { s with obuf := [], obufEpoch := s.draws, draws := s.draws + 1 }

/-- OUT_WRITE(v) for a `v` that fits: OBUF[j] <- v[j], OLEN <- |v|, the words beyond unspecified (spec R42, R85). -/
def State.outWrite (s : State) (v : Units) : State :=
  { s.clearObuf with obuf := Memory.writeUnits [] 0 v, olen := BitVec.ofNat 16 v.length }

/-- NUM_OUT <- y; NUM_WIDTH <- w (spec R36, R37, R167, R168). -/
def State.numWrite (s : State) (y w : Nat) : State :=
  { s with numOut0 := BitVec.ofNat 32 y, numOut1 := BitVec.ofNat 32 (y / 2 ^ 32), numWidth := BitVec.ofNat 4 w }

/-! ## Accept, completion, errors -/

/-- Accept of the command word `w` (spec R45). -/
def State.accept (s : State) (w : Word) : State :=
  { s with cmd := w, status := s.status.accept, errCode := 0 }

/-- Completion without error (spec R46). -/
def State.complete (s : State) : State := { s with status := s.status.complete }

/-- The error writes of a command class (spec R174, R94). -/
def State.errorWrites (s : State) : CmdClass → State
  | .output => { s.clearObuf with olen := 0 }
  | .number => { s with numOut0 := 0, numOut1 := 0, numWidth := 0 }
  | .configure => { s with status := s.status.clearConfig }
  | .illegal => s

/-- TAKING AN ERROR, the FRE's trap entry: completion with an error (spec R46, R173, R174, R180). The class's error
writes are made, ERR and ERRCODE record the cause, CMD keeps the word that failed, and there is no pc and no
vector. -/
def State.raise (s : State) (c : CmdClass) (e : ErrCode) : State :=
  let t := s.errorWrites c
  { t with status := t.status.completeErr, errCode := e.code }

/-- The way back from an error by W1C: a HOST write to STATUS (spec R181, R24). ERRCODE keeps its code. The other
ways are the next `State.accept` and a reset. -/
def State.w1c (s : State) (v : Word) : State := { s with status := s.status.w1c v }

/-- EXEC's result of an output-class command, completed (spec R46, R85, R173). -/
def State.finishOutput (s : State) (r : Except ErrCode Units) : Outcome :=
  match r with
  | .error e => .next (s.raise .output e)
  | .ok v =>
    if s.params.obufDepth < v.length then .next (s.raise .output .capacityOut)
    else .next (s.outWrite v).complete

/-- EXEC's result of a number-class command, completed (spec R46, R173). -/
def State.finishNumber (s : State) (r : Except ErrCode (Nat × Nat)) : Outcome :=
  match r with
  | .error e => .next (s.raise .number e)
  | .ok (y, w) => .next (s.numWrite y w).complete

/-- EXEC's result of CONFIGURE for a variant, completed (spec R93, R94). -/
def State.finishConfigure (s : State) (v : Variant) (r : Except ErrCode Unit) : Outcome :=
  match r with
  | .error e => .next (s.raise .configure e)
  | .ok () => .next { s with status := (s.status.latch v).complete }

/-! ## Reset -/

/-- Hardware reset, and soft reset (spec R54, R190, R192): every architectural field takes its reset value, the KEY,
IBUF and OBUF words are drawn anew, a pending command is discarded. The parameters and the model's record of the
outside world stay. -/
def State.hwReset (s : State) : State :=
  { s with
    irqEn := false, status := .reset, errCode := 0, cmd := 0, engine := 0xFF, rounds := 0, nkeys := 0, keySel := 0,
    keyLen := List.replicate s.params.nkeysMax 0, ilen := 0, olen := 0, arg0 := 0, arg1 := 0,
    numIn0 := 0, numIn1 := 0, numIn2 := 0, numIn3 := 0, numOut0 := 0, numOut1 := 0, numWidth := 0,
    key := [], ibuf := [], obuf := [], memEpoch := s.draws, obufEpoch := s.draws, draws := s.draws + 1,
    engineDelay := 0 }

/-! ## Register writes by the HOST while idle -/

/-- A write to a configuration register or a key word invalidates the configuration (spec R47, R196). -/
def State.invalidate (s : State) : State := { s with status := s.status.clearConfig }

/-- A write that the busy window ignores (spec R44, R195). -/
def State.overrun (s : State) : State := { s with status := s.status.overrun }

end Sys2Proof.Machine
end

