-- ==== Sys2Proof/Machine/Operands.lean ====
section
/-! DEFINITION. The operands of a command: the input vector, the key material, the integer input, the engine, and
the checks every command shares. -/

namespace Sys2Proof.Machine

/-- IN = [IBUF[0], ..., IBUF[ILEN-1]] (spec R41). -/
def State.inUnits (s : State) : Units := (List.range s.ilen.toNat).map fun j => (s.ibufWord j).toNat

/-- IN_VEC() (spec R82). -/
def State.inVec (s : State) : Except ErrCode Units :=
  if s.params.ibufDepth < s.ilen.toNat then .error .capacityIn else .ok s.inUnits

/-- The range check of an input vector: 0xE4 on a unit that fails it (spec R83, R111, R112). -/
def checkUnits (p : Nat → Bool) (v : Units) : Except ErrCode Units :=
  if v.all p then .ok v else .error .badUnit

/-- A byte (spec R13). -/
def isByte (u : Nat) : Bool := u ≤ 0xFF

/-- A value up to the last code point, surrogates among them: the check of ADD and XOR (spec R111, R112). -/
def isCodePoint (u : Nat) : Bool := u ≤ 0x10FFFF

/-- BYTES_IN() (spec R83). -/
def State.bytesIn (s : State) : Except ErrCode Units := do checkUnits isByte (← s.inVec)

/-- CP_IN() (spec R83). -/
def State.cpIn (s : State) : Except ErrCode Units := do checkUnits isScalar (← s.inVec)

/-- KCP(k) = [KEY[k][0], ..., KEY[k][KEYLEN[k]-1]] (spec R40). -/
def State.keyCps (s : State) (k : Nat) : Units :=
  (List.range (s.keyLenOf k).toNat).map fun j => (s.keyWord k j).toNat

/-- KB(k) = UTF8(KCP(k)) (spec R51). -/
def State.keyBytes (s : State) (k : Nat) : Except ErrCode Units := utf8 (s.keyCps k)

/-- KEY_SLOT(k) (spec R84). -/
def State.keySlot (s : State) (k : Nat) : Except ErrCode Units :=
  if s.params.nkeysMax ≤ k then .error .capacityIn
  else if s.params.keyDepth < (s.keyLenOf k).toNat then .error .capacityIn
  else .ok (s.keyCps k)

/-- REQUIRE(var) (spec R86, R175). -/
def State.require (s : State) (v : Variant) : Except ErrCode Unit :=
  if s.status.cfgValid = true ∧ s.status.cfgVar = v then .ok () else .error .notConfigured

/-- An engine by its number; 4..255 denote none (spec R10, R27, R116). -/
def engineOfNumber : Nat → Option Engine
  | 0 => some .blake2b256
  | 1 => some .keccak256
  | 2 => some .sha256
  | 3 => some .sha3
  | _ => none

/-- The engine ENGINE names, or 0x11 (spec R27, R116). -/
def State.engineSel (s : State) : Except ErrCode Engine :=
  match engineOfNumber s.engine.toNat with
  | some e => .ok e
  | none => .error .engineBad

/-- NUM_IN, 128 bits (spec R35, R57). -/
def State.numIn (s : State) : Nat :=
  s.numIn3.toNat * 2 ^ 96 + s.numIn2.toNat * 2 ^ 64 + s.numIn1.toNat * 2 ^ 32 + s.numIn0.toNat

/-- NUM_OUT, 64 bits (spec R36, R57). -/
def State.numOut (s : State) : Nat := s.numOut1.toNat * 2 ^ 32 + s.numOut0.toNat

end Sys2Proof.Machine
end

