-- ==== Sys2Proof/Machine/Bus.lean ====
section
/-! DEFINITION. The HOST's side of the window: the register map, reads, writes, and the events of the HOST and the
platform (spec 10_state.md, 20_memory.md). -/

namespace Sys2Proof.Machine

/-- The registers of the map (spec R21). -/
inductive Reg where
  | id | ctrl | status | errCode | cmd | engine | rounds | nkeys | keySel | keyLen | ilen | olen | arg0 | arg1
  | numIn0 | numIn1 | numIn2 | numIn3 | numOut0 | numOut1 | numWidth | capIbuf | capObuf | capKey
  deriving DecidableEq, Repr

/-- The register offsets (spec R21). -/
def regMap : List (Nat × Reg) :=
  [(0x000, .id), (0x004, .ctrl), (0x008, .status), (0x00C, .errCode), (0x010, .cmd), (0x014, .engine),
   (0x018, .rounds), (0x01C, .nkeys), (0x020, .keySel), (0x024, .keyLen), (0x028, .ilen), (0x02C, .olen)] ++
  [(0x030, .arg0), (0x034, .arg1), (0x038, .numIn0), (0x03C, .numIn1), (0x040, .numIn2), (0x044, .numIn3),
   (0x048, .numOut0), (0x04C, .numOut1), (0x050, .numWidth), (0x054, .capIbuf), (0x058, .capObuf), (0x05C, .capKey)]

/-- What an offset of the window reaches. -/
inductive Target where
  | reg (r : Reg)
  | key (k j : Nat)
  | ibuf (j : Nat)
  | obuf (j : Nat)
  | reserved
  deriving DecidableEq, Repr

/-- The target of an aligned window offset (spec R21, R40 to R43). KEYWIN reaches slot KEYSEL. -/
def State.target (s : State) (off : Nat) : Target :=
  match regMap.lookup off with
  | some r => .reg r
  | none =>
    if 0x1000 ≤ off ∧ off < 0x2000 then
      if (off - 0x1000) / 4 < s.params.keyDepth ∧ s.keySel.toNat < s.params.nkeysMax then
        .key s.keySel.toNat ((off - 0x1000) / 4)
      else .reserved
    else if 0x4000 ≤ off ∧ off < 0x8000 then
      if (off - 0x4000) / 4 < s.params.ibufDepth then .ibuf ((off - 0x4000) / 4) else .reserved
    else if 0x8000 ≤ off ∧ off < 0x10000 then
      if (off - 0x8000) / 4 < s.params.obufDepth then .obuf ((off - 0x8000) / 4) else .reserved
    else .reserved

/-- The registers whose value a read while busy leaves unspecified (spec R50). -/
def Reg.isResult : Reg → Bool
  | .errCode | .olen | .numOut0 | .numOut1 | .numWidth => true
  | _ => false

/-- KEYLEN as the HOST reads it: 0 where KEYSEL names no slot (spec R31). -/
def State.keyLenRead (s : State) : BitVec 16 :=
  if s.keySel.toNat < s.params.nkeysMax then s.keyLenOf s.keySel.toNat else 0

/-- The current value of a register; bits outside its fields read 0 (spec R22 to R39). -/
def State.readReg (s : State) : Reg → Word
  | .id => 0x46524531
  | .ctrl => s.ctrlWord
  | .status => s.status.word
  | .errCode => s.errCode.setWidth 32
  | .cmd => s.cmd
  | .engine => s.engine.setWidth 32
  | .rounds => s.rounds
  | .nkeys => s.nkeys.setWidth 32
  | .keySel => s.keySel.setWidth 32
  | .keyLen => s.keyLenRead.setWidth 32
  | .ilen => s.ilen.setWidth 32
  | .olen => s.olen.setWidth 32
  | .arg0 => s.arg0
  | .arg1 => s.arg1
  | .numIn0 => s.numIn0
  | .numIn1 => s.numIn1
  | .numIn2 => s.numIn2
  | .numIn3 => s.numIn3
  | .numOut0 => s.numOut0
  | .numOut1 => s.numOut1
  | .numWidth => s.numWidth.setWidth 32
  | .capIbuf => BitVec.ofNat 32 s.params.ibufDepth
  | .capObuf => BitVec.ofNat 32 s.params.obufDepth
  | .capKey => (0 : BitVec 8) ++ BitVec.ofNat 8 s.params.nkeysMax ++ BitVec.ofNat 16 s.params.keyDepth

/-- A free value of a result register, with the bits outside its field at 0 (spec R25, R33, R37, R50, U2, U10;
log 7). -/
def Reg.freeValue (r : Reg) (w : Word) : Word :=
  match r with
  | .errCode => (w.setWidth 8).setWidth 32
  | .olen => (w.setWidth 16).setWidth 32
  | .numWidth => (w.setWidth 4).setWidth 32
  | _ => w

/-- The value a HOST read of a target returns, and the state after it. A read changes nothing of the FRE (spec R61);
one that is unspecified while busy takes a draw (R50, U2). -/
def State.busRead (s : State) (t : Target) : Word × State :=
  match t with
  | .reg r =>
    if s.status.busy && r.isResult then (r.freeValue (Config.freeRead s.draws), s.draw) else (s.readReg r, s)
  | .key k j => (s.keyWord k j, s)
  | .ibuf j => (s.ibufWord j, s)
  | .obuf j => if s.status.busy then (Config.freeRead s.draws, s.draw) else (s.obufWord j, s)
  | .reserved => (0, s)

/-- A write to KEYLEN while idle: stored and invalidating where KEYSEL names a slot, else ignored (spec R31, R47). -/
def State.writeKeyLen (s : State) (v : Word) : State :=
  if s.keySel.toNat < s.params.nkeysMax then
    { s with keyLen := s.keyLen.set s.keySel.toNat (v.setWidth 16) }.invalidate
  else s

/-- A CTRL write, honoured while busy too: the soft reset wins over IRQ_EN (spec R23, R192). -/
def State.writeCtrl (s : State) (v : Word) : State :=
  if v.getLsbD 0 then s.hwReset else { s with irqEn := v.getLsbD 1 }

/-- A CMD write while idle: the accept of spec R45, and the draw of the latency (R46, U5; log 2). -/
def State.issue (s : State) (v : Word) : State :=
  { s.accept v with engineDelay := Config.freeLatency s.draws, draws := s.draws + 1 }

/-- A write to a register that the busy window protects, while idle: each keeps its field's bits (spec R38), and
ENGINE, ROUNDS, NKEYS and KEYLEN invalidate the configuration (R47). -/
def State.writeRw (s : State) (r : Reg) (v : Word) : State :=
  match r with
  | .cmd => s.issue v
  | .engine => { s with engine := v.setWidth 8 }.invalidate
  | .rounds => { s with rounds := v }.invalidate
  | .nkeys => { s with nkeys := v.setWidth 8 }.invalidate
  | .keySel => { s with keySel := v.setWidth 8 }
  | .keyLen => s.writeKeyLen v
  | .ilen => { s with ilen := v.setWidth 16 }
  | .arg0 => { s with arg0 := v }
  | .arg1 => { s with arg1 := v }
  | .numIn0 => { s with numIn0 := v }
  | .numIn1 => { s with numIn1 := v }
  | .numIn2 => { s with numIn2 := v }
  | .numIn3 => { s with numIn3 := v }
  | _ => s

/-- The registers that the busy window protects (spec R44). -/
def Reg.isRw : Reg → Bool
  | .cmd | .engine | .rounds | .nkeys | .keySel | .keyLen | .ilen | .arg0 | .arg1
  | .numIn0 | .numIn1 | .numIn2 | .numIn3 => true
  | _ => false

/-- The state after a HOST write to a target (spec R23, R24, R38, R43, R44, R47, R61). -/
def State.busWrite (s : State) (t : Target) (v : Word) : State :=
  match t with
  | .reg .ctrl => s.writeCtrl v
  | .reg .status => s.w1c v
  | .reg r => if r.isRw then (if s.status.busy then s.overrun else s.writeRw r v) else s
  | .key k j =>
    if s.status.busy then s.overrun else { s with key := s.key.writeWord (keyAddr k j) v }.invalidate
  | .ibuf j => if s.status.busy then s.overrun else { s with ibuf := s.ibuf.writeWord (4 * j) v }
  | .obuf _ => s
  | .reserved => s

/-- The bus answers. -/
def State.reply (s : State) (r : BusReply) : State := { s with hostLog := r :: s.hostLog }

/-- The window decodes this address (spec R21, R62). -/
def State.inWindow (s : State) (addr : Nat) : Bool := s.params.base ≤ addr && addr < s.params.base + 0x10000

/-- The FRE admits this access: 32 bits wide, at a multiple of 4 (spec R59). -/
def admitted (addr bytes : Nat) : Bool := bytes == 4 && addr % 4 == 0

/-- An access of the HOST: dropped during `rst` (spec R190, U12; log 11), a fault outside the window or where the FRE does
not admit it (R59, R62; log 9, 10), else performed. DESIGN CHOICE (log 26): `rst` is looked at first, so that an access of
both kinds is dropped and is no fault. -/
def State.access (s : State) (addr bytes : Nat) (perform : Nat → State) : Outcome :=
  if s.rst then .next (s.reply .dropped)
  else if !s.inWindow addr then .fault .outsideWindow
  else if !admitted addr bytes then .fault .busError
  else .next (perform (addr - s.params.base))

/-- A HOST read at a window offset. -/
def State.hostRead (s : State) (off : Nat) : State :=
  let (w, t) := s.busRead (s.target off)
  t.reply (.data w)

/-- A HOST write at a window offset. -/
def State.hostWrite (s : State) (off : Nat) (v : Word) : State := (s.busWrite (s.target off) v).reply .ack

/-- One turn of the `wait` loop: a read of STATUS, and the loop again while BUSY = 1 (spec R79). -/
def State.hostWait (s : State) : State :=
  let t := s.reply (.data s.status.word)
  if s.status.busy then { t with hostQueue := .wait :: t.hostQueue } else t

/-- `read OBUF[j] -> x` on a window at `base` (spec R79). -/
def readObufOp (base j : Nat) : HostOp := .read (base + 0x8000 + 4 * j) 4

/-- The first access of `readout`: a read of OLEN, whose answer n puts the reads of OBUF[0] to OBUF[n-1] next
(spec R80; log 16). -/
def State.hostReadOut (s : State) : State :=
  let (n, t) := s.busRead (.reg .olen)
  { t.reply (.data n) with
    hostQueue := (List.range n.toNat).map (readObufOp s.params.base) ++ t.hostQueue }

/-- One event of the outside world, already taken from the queue. -/
def State.hostEvent (s : State) : HostOp → Outcome
  | .read addr bytes => s.access addr bytes s.hostRead
  | .write addr bytes v => s.access addr bytes (s.hostWrite · v)
  | .wait => if s.rst then .next (s.reply .dropped) else .next s.hostWait
  | .readOut => if s.rst then .next (s.reply .dropped) else .next s.hostReadOut
  | .rst true => .next { s.hwReset with rst := true }
  | .rst false => .next { s with rst := false }

/-- The outside world's turn: the first event of the queue; with none left the idle FRE does nothing (spec R189;
log 19). -/
def State.hostTurn (s : State) : Outcome :=
  match s.hostQueue with
  | [] => .next s
  | op :: rest => { s with hostQueue := rest, engineDelay := s.engineDelay - 1 }.hostEvent op

end Sys2Proof.Machine
end

