-- ==== Sys2Proof/Machine/Datapath.lean ====
section
/-! DEFINITION. The keyed arithmetic, padding, round functions and Feistel cores that every cipher command is
made of. Each is a function of its operands; the digest port is an argument. -/

namespace Sys2Proof.Machine

/-! ## Keyed arithmetic (spec 41_utilities.md) -/

/-- EXTRACT(k, idx, n) (spec R97). -/
def extractUnits (k : Units) (idx n : Nat) : Except ErrCode Units :=
  if k.length = 0 then .error .keyEmpty
  else .ok ((List.range n).map fun j => k.getD ((idx + j) % k.length) 0)

/-- ADD_CP(a, b), unbounded (spec R98). -/
def addCp (a b : Units) : Except ErrCode Units :=
  if a.length ≠ b.length then .error .lengthMismatch else .ok (List.zipWith (· + ·) a b)

/-- One position of ADD_BYTES: the sum modulo 256 as one or two bytes (spec R99). -/
def expandSum (x y : Nat) : Units :=
  let v := (x + y) % 256
  if v < 128 then [v] else if v < 192 then [194, v] else [195, v - 64]

/-- ADD_BYTES(a, b) (spec R99). -/
def addBytes (a b : Units) : Except ErrCode Units :=
  if a.length ≠ b.length then .error .lengthMismatch else .ok (List.zipWith expandSum a b).flatten

/-- XOR(a, b) of unit values (spec R100). -/
def xorUnits (a b : Units) : Except ErrCode Units :=
  if a.length ≠ b.length then .error .lengthMismatch else .ok (List.zipWith (· ^^^ ·) a b)

/-- SPLIT(s) (spec R101). -/
def splitUnits (s : Units) : Units × Units := (s.take (s.length / 2), s.drop (s.length / 2))

/-- PAD(s) (spec R106). -/
def padUnits (s : Units) : Units := if s.length % 2 = 1 then Config.padMark :: s else s

/-- UNPAD(s): strips every leading marker (spec R107). -/
def unpadUnits (s : Units) : Units := s.dropWhile (· == Config.padMark)

/-! ## The keyed round function (spec 42_round.md) -/

/-- The bytes of a byte vector, for the digest port (log 22). -/
def toBytes (v : Units) : List Byte := v.map (BitVec.ofNat 8)

/-- ROUND_CP(item, i, key, e) (spec R119). -/
def roundCp (dg : DigestFn) (item : Units) (i : Nat) (key : Units) (e : Engine) : Except ErrCode Units := do
  let seed ← extractUnits key i item.length
  let mixed ← addCp item seed
  let bytes ← utf8 mixed
  extractUnits (hex (dg e (toBytes bytes))) i item.length

/-- ROUND_B(item, i, kb, e) (spec R120). -/
def roundB (dg : DigestFn) (item : Units) (i : Nat) (kb : Units) (e : Engine) : Except ErrCode Units := do
  let seed ← extractUnits kb i item.length
  let mixed ← addBytes item seed
  extractUnits (hex (dg e (toBytes mixed))) i item.length

/-! ## The balanced cipher's cores (spec 44_balanced.md). `f i x` is the round function of round i. -/

/-- Rounds 0 to n-1 of BAL_CORE_ENC on the pair (L, R) (spec R135). -/
def balEncRounds (f : Nat → Units → Except ErrCode Units) : Nat → Units × Units → Except ErrCode (Units × Units)
  | 0, p => .ok p
  | n + 1, p => do
    let (l, r) ← balEncRounds f n p
    let mask ← f n r
    let r' ← xorUnits l mask
    .ok (r, r')

/-- BAL_CORE_ENC(d, keyf, N) (spec R135). -/
def balCoreEnc (f : Nat → Units → Except ErrCode Units) (n : Nat) (d : Units) : Except ErrCode Units :=
  if d.length = 0 then .ok []
  else do
    let (l, r) ← balEncRounds f n (splitUnits (padUnits d))
    .ok (l ++ r)

/-- Rounds n-1 down to 0 of BAL_CORE_DEC on the pair (B, A): the round function first, then the XOR (spec R136). -/
def balDecRounds (f : Nat → Units → Except ErrCode Units) : Nat → Units × Units → Except ErrCode (Units × Units)
  | 0, p => .ok p
  | n + 1, (b, a) => do
    let mask ← f n b
    let tmp ← xorUnits a mask
    balDecRounds f n (tmp, b)

/-- BAL_CORE_DEC(u, keyf, N) (spec R136). -/
def balCoreDec (f : Nat → Units → Except ErrCode Units) (n : Nat) (u : Units) : Except ErrCode Units := do
  let (b, a) ← balDecRounds f n (splitUnits u)
  .ok (unpadUnits (b ++ a))

/-! ## The format-preserving cipher's cores (spec 45_fpe.md) -/

/-- A side with one neutral unit appended where `c` holds (spec R147, R150). -/
def extendIf (c : Prop) [Decidable c] (v : Units) : Units := if c then v ++ [Config.neutral] else v

/-- One round of FPE_CORE_ENC: extend, round, crop (spec R147). -/
def fpeEncRound (f : Nat → Units → Except ErrCode Units) (i : Nat) (p : Units × Units) :
    Except ErrCode (Units × Units) := do
  let (l, r) := p
  let rnd ← f i (extendIf (r.length < l.length) r)
  let nR ← xorUnits (extendIf (l.length + 1 = rnd.length) l) rnd
  .ok (r, if l.length + 1 = rnd.length then nR.take (nR.length - 1) else nR)

/-- Rounds 0 to n-1 of FPE_CORE_ENC. -/
def fpeEncRounds (f : Nat → Units → Except ErrCode Units) : Nat → Units × Units → Except ErrCode (Units × Units)
  | 0, p => .ok p
  | n + 1, p => do fpeEncRound f n (← fpeEncRounds f n p)

/-- FPE_CORE_ENC(p, kb, N, e) (spec R147). -/
def fpeCoreEnc (f : Nat → Units → Except ErrCode Units) (n : Nat) (p : Units) : Except ErrCode Units :=
  if p.length = 0 then .ok []
  else do
    let (l, r) ← fpeEncRounds f n (splitUnits p)
    .ok (l ++ r)

/-- One round of FPE_CORE_DEC (spec R150). -/
def fpeDecRound (f : Nat → Units → Except ErrCode Units) (i : Nat) (p : Units × Units) :
    Except ErrCode (Units × Units) := do
  let (l, r) := p
  let rnd ← f i (extendIf (l.length < r.length) l)
  let q ← xorUnits r (rnd.take r.length)
  .ok (q, l)

/-- Rounds n-1 down to 0 of FPE_CORE_DEC. -/
def fpeDecRounds (f : Nat → Units → Except ErrCode Units) : Nat → Units × Units → Except ErrCode (Units × Units)
  | 0, p => .ok p
  | n + 1, p => do fpeDecRounds f n (← fpeDecRound f n p)

/-- The initial split of FPE_CORE_DEC: the left half is the longer after an odd number of rounds on an odd length
(spec R150). -/
def fpeDecSplit (n : Nat) (c : Units) : Units × Units :=
  if n % 2 = 1 ∧ c.length % 2 = 1 then (c.take (c.length / 2 + 1), c.drop (c.length / 2 + 1)) else splitUnits c

/-- FPE_CORE_DEC(c, kb, N, e) (spec R150). -/
def fpeCoreDec (f : Nat → Units → Except ErrCode Units) (n : Nat) (c : Units) : Except ErrCode Units :=
  if c.length = 0 then .ok []
  else do
    let (l, r) ← fpeDecRounds f n (fpeDecSplit n c)
    .ok (l ++ r)

/-! ## The codec (spec 43_codec.md), with its table -/

/-- B256ENC(b) (spec R127). -/
def b256EncUnits (t : Units) (b : Units) : Units := b.map fun x => t.getD x 0

/-- B256DEC(s): 0x32 at the first absent character (spec R128). -/
def b256DecUnits (t : Units) : Units → Except ErrCode Units
  | [] => .ok []
  | c :: cs =>
    match t.idxOf? c with
    | none => .error .ctBadChar
    | some x => (b256DecUnits t cs).map (x :: ·)

/-! ## Integer buffers (spec 46_number.md) -/

/-- BE_w(x) (spec R162). -/
def beBytes (w x : Nat) : Units := (List.range w).map fun j => (x >>> (8 * (w - 1 - j))) &&& 0xFF

/-- UNBE(b) (spec R162). -/
def unBe (b : Units) : Nat := b.foldl (fun acc x => acc * 256 + x) 0

/-- WIDTH(W, x), in bytes: AUTO takes the smallest of 2, 4, 8 that holds the value (spec R163). -/
def widthBytes (w : Width) (x : Nat) : Nat :=
  match w with
  | .auto => if x < 2 ^ 16 then 2 else if x < 2 ^ 32 then 4 else 8
  | .two => 2
  | .four => 4
  | .eight => 8

end Sys2Proof.Machine
end

