-- ==== Sys2Proof/Machine/Balanced.lean ====
section
/-! DEFINITION. BAL_ENC, BAL_DEC, MK_ENC and MK_DEC (spec 44_balanced.md). -/

namespace Sys2Proof.Machine

/-- The round function of BAL: key slot 0 in every round, SHA-256 (spec R133, R134). -/
def State.balRound (dg : DigestFn) (s : State) (i : Nat) (x : Units) : Except ErrCode Units :=
  roundCp dg x i (s.keyCps 0) .sha256

/-- The round function of MK: key slot i in round i, SHA-256 (spec R133, R134). -/
def State.mkRound (dg : DigestFn) (s : State) (i : Nat) (x : Units) : Except ErrCode Units :=
  roundCp dg x i (s.keyCps i) .sha256

/-- The encrypt command of a variant (spec R139, R142). -/
def State.feistelEnc (s : State) (v : Variant) (f : Nat → Units → Except ErrCode Units) (n : Nat) :
    Except ErrCode Units := do
  s.require v
  let d ← s.cpIn
  let c ← balCoreEnc f n d
  utf8 c

/-- The decrypt command of a variant (spec R141, R143). -/
def State.feistelDec (s : State) (v : Variant) (f : Nat → Units → Except ErrCode Units) (n : Nat) :
    Except ErrCode Units := do
  s.require v
  let b ← s.bytesIn
  if b.length = 0 then .ok []
  else if b.length % 2 = 1 then .error .ctOdd
  else do balCoreDec f n (← utf8Dec b)

/-- BAL_ENC's result (spec R139). -/
def State.balEncResult (dg : DigestFn) (s : State) : Except ErrCode Units :=
  s.feistelEnc .bal (s.balRound dg) s.rounds.toNat

/-- BAL_DEC's result (spec R141). -/
def State.balDecResult (dg : DigestFn) (s : State) : Except ErrCode Units :=
  s.feistelDec .bal (s.balRound dg) s.rounds.toNat

/-- MK_ENC's result (spec R142). -/
def State.mkEncResult (dg : DigestFn) (s : State) : Except ErrCode Units :=
  s.feistelEnc .mk (s.mkRound dg) s.nkeys.toNat

/-- MK_DEC's result (spec R143). -/
def State.mkDecResult (dg : DigestFn) (s : State) : Except ErrCode Units :=
  s.feistelDec .mk (s.mkRound dg) s.nkeys.toNat

/-- BAL_ENC (spec R139). -/
def execBalEnc (s : State) : Outcome := s.finishOutput (s.balEncResult Config.digest)

/-- BAL_DEC (spec R141). -/
def execBalDec (s : State) : Outcome := s.finishOutput (s.balDecResult Config.digest)

/-- MK_ENC (spec R142). -/
def execMkEnc (s : State) : Outcome := s.finishOutput (s.mkEncResult Config.digest)

/-- MK_DEC (spec R143). -/
def execMkDec (s : State) : Outcome := s.finishOutput (s.mkDecResult Config.digest)

end Sys2Proof.Machine
end

