-- ==== Sys2Proof/Machine/Codec.lean ====
section
/-! DEFINITION. B256_ENC and B256_DEC (spec 43_codec.md). -/

namespace Sys2Proof.Machine

/-- B256_ENC (spec R131). -/
def execB256Enc (s : State) : Outcome := s.finishOutput (s.bytesIn.map (b256EncUnits s.params.b256))

/-- B256_DEC (spec R132). -/
def execB256Dec (s : State) : Outcome := s.finishOutput (do b256DecUnits s.params.b256 (← s.inVec))

end Sys2Proof.Machine
end

