-- ==== Sys2Proof/Machine/Control.lean ====
section
/-! DEFINITION. NOP and CONFIGURE (spec 40_control.md). -/

namespace Sys2Proof.Machine

/-- NOP does nothing but complete (spec R88). -/
def execNop (s : State) : Outcome := .next s.complete

/-- The checks one key slot of a configuration must pass (spec R90 to R92). -/
def State.checkKey (s : State) (k : Nat) : Except ErrCode Unit := do
  let cps ← s.keySlot k
  if cps.length = 0 then .error .keyEmpty else if cps.all isScalar then .ok () else .error .badUnit

/-- The round count check (spec R28, R90, R92). -/
def State.checkRounds (s : State) : Except ErrCode Unit :=
  if s.rounds.toNat < 2 then .error .roundsLow else .ok ()

/-- The checks of the slots of a list, in its order (spec R91). -/
def State.checkKeys (s : State) : List Nat → Except ErrCode Unit
  | [] => .ok ()
  | k :: ks => do s.checkKey k; s.checkKeys ks

/-- The checks of CONFIGURE v=bal (spec R90). -/
def State.checkBal (s : State) : Except ErrCode Unit := do
  s.checkKey 0
  s.checkRounds

/-- The checks of CONFIGURE v=mk (spec R91). -/
def State.checkMk (s : State) : Except ErrCode Unit :=
  if s.nkeys.toNat < 2 then .error .nkeysLow
  else if s.params.nkeysMax < s.nkeys.toNat then .error .capacityIn
  else s.checkKeys (List.range s.nkeys.toNat)

/-- The checks of CONFIGURE v=fpe (spec R92). -/
def State.checkFpe (s : State) : Except ErrCode Unit := do
  let _ ← s.engineSel
  s.checkKey 0
  s.checkRounds

/-- The checks of CONFIGURE for a variant (spec R89). -/
def State.checkConfig (s : State) : Variant → Except ErrCode Unit
  | .bal => s.checkBal
  | .mk => s.checkMk
  | .fpe => s.checkFpe

/-- CONFIGURE v=bal (spec R89, R90, R93, R94). -/
def execConfigureBal (s : State) : Outcome := s.finishConfigure .bal s.checkBal

/-- CONFIGURE v=mk (spec R89, R91, R93, R94). -/
def execConfigureMk (s : State) : Outcome := s.finishConfigure .mk s.checkMk

/-- CONFIGURE v=fpe (spec R89, R92, R93, R94). -/
def execConfigureFpe (s : State) : Outcome := s.finishConfigure .fpe s.checkFpe

end Sys2Proof.Machine
end

