-- ==== Sys2Proof/Machine/Fpe.lean ====
section
/-! DEFINITION. FPE_ENC, FPE_DEC, FPE_ENC_STR and FPE_DEC_STR (spec 45_fpe.md). -/

namespace Sys2Proof.Machine

/-- The round function of the latched FPE configuration: KB(0) and ENGINE (spec R146). -/
def State.fpeRound (dg : DigestFn) (s : State) (i : Nat) (x : Units) : Except ErrCode Units := do
  let kb ← s.keyBytes 0
  let e ← s.engineSel
  roundB dg x i kb e

/-- FPE_CORE_ENC with the latched configuration (spec R146, R147). -/
def State.fpeEncrypt (dg : DigestFn) (s : State) (p : Units) : Except ErrCode Units :=
  fpeCoreEnc (s.fpeRound dg) s.rounds.toNat p

/-- FPE_CORE_DEC with the latched configuration (spec R146, R150). -/
def State.fpeDecrypt (dg : DigestFn) (s : State) (c : Units) : Except ErrCode Units :=
  fpeCoreDec (s.fpeRound dg) s.rounds.toNat c

/-- Field F on the ciphertext an encrypt writes (spec R154). -/
def State.renderCipher (s : State) (f : Form) (c : Units) : Units :=
  match f with
  | .raw => c
  | .rendered => b256EncUnits s.params.b256 c

/-- Field F on the ciphertext a decrypt reads (spec R154, R157). -/
def State.cipherIn (s : State) (f : Form) : Except ErrCode Units :=
  match f with
  | .raw => s.bytesIn
  | .rendered => do b256DecUnits s.params.b256 (← s.inVec)

/-- FPE_ENC's result (spec R156). -/
def State.fpeEncResult (dg : DigestFn) (s : State) (f : Form) : Except ErrCode Units := do
  s.require .fpe
  let p ← s.bytesIn
  let c ← s.fpeEncrypt dg p
  .ok (s.renderCipher f c)

/-- FPE_DEC's result (spec R157). -/
def State.fpeDecResult (dg : DigestFn) (s : State) (f : Form) : Except ErrCode Units := do
  s.require .fpe
  let c ← s.cipherIn f
  s.fpeDecrypt dg c

/-- FPE_ENC_STR's result (spec R158). -/
def State.fpeEncStrResult (dg : DigestFn) (s : State) (f : Form) : Except ErrCode Units := do
  s.require .fpe
  let v ← s.cpIn
  let c ← s.fpeEncrypt dg (← utf8 v)
  .ok (s.renderCipher f c)

/-- FPE_DEC_STR's result (spec R159). -/
def State.fpeDecStrResult (dg : DigestFn) (s : State) (f : Form) : Except ErrCode Units := do
  s.require .fpe
  let c ← s.cipherIn f
  utf8Dec (← s.fpeDecrypt dg c)

/-- FPE_ENC (spec R156). -/
def execFpeEnc (f : Form) (s : State) : Outcome := s.finishOutput (s.fpeEncResult Config.digest f)

/-- FPE_DEC (spec R157). -/
def execFpeDec (f : Form) (s : State) : Outcome := s.finishOutput (s.fpeDecResult Config.digest f)

/-- FPE_ENC_STR (spec R158). -/
def execFpeEncStr (f : Form) (s : State) : Outcome := s.finishOutput (s.fpeEncStrResult Config.digest f)

/-- FPE_DEC_STR (spec R159). -/
def execFpeDecStr (f : Form) (s : State) : Outcome := s.finishOutput (s.fpeDecStrResult Config.digest f)

end Sys2Proof.Machine
end

