-- ==== Sys2Proof/Machine/Number.lean ====
section
/-! DEFINITION. NUM_ENC and NUM_DEC (spec 46_number.md). -/

namespace Sys2Proof.Machine

/-- The width checks of a number command: the value and its width in bytes (spec R163, R164). -/
def State.numOperand (s : State) (w : Width) : Except ErrCode (Nat × Nat) :=
  if 2 ^ 64 ≤ s.numIn then .error .magnitude
  else if 2 ^ (8 * widthBytes w s.numIn) ≤ s.numIn then .error .widthFit
  else .ok (s.numIn, widthBytes w s.numIn)

/-- A number command over a byte core: zero is a fixed point and runs no round (spec R165, R167, R168). -/
def State.numResult (s : State) (w : Width) (core : Units → Except ErrCode Units) : Except ErrCode (Nat × Nat) := do
  s.require .fpe
  let (x, wd) ← s.numOperand w
  if x = 0 then .ok (0, wd) else (core (beBytes wd x)).map fun b => (unBe b, wd)

/-- NUM_ENC (spec R167). -/
def execNumEnc (w : Width) (s : State) : Outcome := s.finishNumber (s.numResult w (s.fpeEncrypt Config.digest))

/-- NUM_DEC (spec R168). -/
def execNumDec (w : Width) (s : State) : Outcome := s.finishNumber (s.numResult w (s.fpeDecrypt Config.digest))

end Sys2Proof.Machine
end

