-- ==== Sys2Proof/Machine/Round.lean ====
section
/-! DEFINITION. DIGEST and ROUND (spec 42_round.md). The digest port is an argument of each result, so that a result
can be evaluated with a digest in hand; the meanings take `Config.digest`. -/

namespace Sys2Proof.Machine

/-- DIGEST's result (spec R123). -/
def State.digestResult (dg : DigestFn) (s : State) (f : Form) : Except ErrCode Units := do
  let e ← s.engineSel
  let m ← s.bytesIn
  match f with
  | .raw => .ok ((dg e (toBytes m)).toList.map (·.toNat))
  | .rendered => .ok (hex (dg e (toBytes m)))

/-- DIGEST (spec R123). -/
def execDigest (f : Form) (s : State) : Outcome := s.finishOutput (s.digestResult Config.digest f)

/-- ROUND's result (spec R124). In byte mode the checks run in the order the rule lists: slot, IN, the key's
UTF-8, the round. -/
def State.roundResult (dg : DigestFn) (s : State) (m : Mode) : Except ErrCode Units := do
  let e ← s.engineSel
  let key ← s.keySlot s.keySel.toNat
  match m with
  | .cp =>
    let item ← s.cpIn
    roundCp dg item s.arg0.toNat key e
  | .byte =>
    let item ← s.bytesIn
    let kb ← utf8 key
    roundB dg item s.arg0.toNat kb e

/-- ROUND (spec R124). -/
def execRound (m : Mode) (s : State) : Outcome := s.finishOutput (s.roundResult Config.digest m)

end Sys2Proof.Machine
end

