-- ==== Sys2Proof/Machine/Utilities.lean ====
section
/-! DEFINITION. EXTRACT, ADD, XOR, PAD and UNPAD (spec 41_utilities.md). -/

namespace Sys2Proof.Machine

/-- The key material of EXTRACT: the code points, or their UTF-8 bytes (spec R51, R110). -/
def State.extractMaterial (s : State) (m : Mode) : Except ErrCode Units := do
  let key ← s.keySlot s.keySel.toNat
  match m with
  | .cp => .ok key
  | .byte => utf8 key

/-- EXTRACT's result (spec R110). The capacity check stands before the computation, which the rule allows "with the
same outcome" (log 14). -/
def State.extractResult (s : State) (m : Mode) : Except ErrCode Units := do
  let mat ← s.extractMaterial m
  if mat.length = 0 then .error .keyEmpty
  else if s.params.obufDepth < s.arg1.toNat then .error .capacityOut
  else extractUnits mat s.arg0.toNat s.arg1.toNat

/-- EXTRACT (spec R110). -/
def execExtract (m : Mode) (s : State) : Outcome := s.finishOutput (s.extractResult m)

/-- The unit range ADD and XOR check for a mode (spec R111, R112). -/
def unitCheck : Mode → Nat → Bool
  | .cp => isCodePoint
  | .byte => isByte

/-- The operands a, b of ADD and XOR: IN = a ++ b with |a| = ARG0 (spec R111, R112). -/
def State.operandPair (s : State) (m : Mode) : Except ErrCode (Units × Units) := do
  let v ← checkUnits (unitCheck m) (← s.inVec)
  if v.length < s.arg0.toNat then .error .lengthMismatch
  else .ok (v.take s.arg0.toNat, v.drop s.arg0.toNat)

/-- ADD's result (spec R111). -/
def State.addResult (s : State) (m : Mode) : Except ErrCode Units := do
  let (a, b) ← s.operandPair m
  match m with
  | .cp => addCp a b
  | .byte => addBytes a b

/-- ADD (spec R111). -/
def execAdd (m : Mode) (s : State) : Outcome := s.finishOutput (s.addResult m)

/-- XOR's result (spec R112). -/
def State.xorResult (s : State) (m : Mode) : Except ErrCode Units := do
  let (a, b) ← s.operandPair m
  xorUnits a b

/-- XOR (spec R112). -/
def execXor (m : Mode) (s : State) : Outcome := s.finishOutput (s.xorResult m)

/-- PAD (spec R113). -/
def execPad (s : State) : Outcome := s.finishOutput (s.cpIn.map padUnits)

/-- UNPAD (spec R114). -/
def execUnpad (s : State) : Outcome := s.finishOutput (s.cpIn.map unpadUnits)

end Sys2Proof.Machine
end

