-- ==== Sys2Proof/Machine/Dispatch.lean ====
section
/-! DEFINITION. EXEC of spec R46: the ENGINE's step for each command, one arm a command. -/

namespace Sys2Proof.Machine

def exec (i : Instr) (s : State) : Host.Outcome State Fault Refusal :=
  match i with
  -- 40_control.md
  | .nop => Sys2Proof.Machine.execNop s
  | .configureBal => Sys2Proof.Machine.execConfigureBal s
  | .configureMk => Sys2Proof.Machine.execConfigureMk s
  | .configureFpe => Sys2Proof.Machine.execConfigureFpe s
  -- 41_utilities.md
  | .extract m => Sys2Proof.Machine.execExtract m s
  | .add m => Sys2Proof.Machine.execAdd m s
  | .xor m => Sys2Proof.Machine.execXor m s
  | .pad => Sys2Proof.Machine.execPad s
  | .unpad => Sys2Proof.Machine.execUnpad s
  -- 42_round.md
  | .digest f => Sys2Proof.Machine.execDigest f s
  | .round m => Sys2Proof.Machine.execRound m s
  -- 43_codec.md
  | .b256Enc => Sys2Proof.Machine.execB256Enc s
  | .b256Dec => Sys2Proof.Machine.execB256Dec s
  -- 44_balanced.md
  | .balEnc => Sys2Proof.Machine.execBalEnc s
  | .balDec => Sys2Proof.Machine.execBalDec s
  | .mkEnc => Sys2Proof.Machine.execMkEnc s
  | .mkDec => Sys2Proof.Machine.execMkDec s
  -- 45_fpe.md
  | .fpeEnc f => Sys2Proof.Machine.execFpeEnc f s
  | .fpeDec f => Sys2Proof.Machine.execFpeDec f s
  | .fpeEncStr f => Sys2Proof.Machine.execFpeEncStr f s
  | .fpeDecStr f => Sys2Proof.Machine.execFpeDecStr f s
  -- 46_number.md
  | .numEnc w => Sys2Proof.Machine.execNumEnc w s
  | .numDec w => Sys2Proof.Machine.execNumDec w s

end Sys2Proof.Machine
end

