-- ==== Sys2Proof/Machine/Turn.lean ====
section
/-! DEFINITION. The ENGINE's step and whose turn it is (spec R46, R64, R205). -/

namespace Sys2Proof.Machine

/-- The ENGINE's step: the command in CMD, or 0xE0 where it is illegal (spec R46, R76, R174). -/
def State.engineStep (s : State) : Outcome :=
  match decode s.cmd with
  | .ok i => exec i s
  | .error _ => .next (s.raise .illegal .illegalCmd)

/-- The ENGINE moves next: it is busy, and the drawn latency is over or no event is left (spec R46, R205, U5;
log 2). -/
def State.engineTurn (s : State) : Bool := s.status.busy && (s.engineDelay == 0 || s.hostQueue.isEmpty)

/-- The state in which the command word made of the low `nbits` bits of `w` has just been accepted and the ENGINE
moves next (spec R45; log 1, log 23). -/
def State.pending (s : State) (nbits w : Nat) : State :=
  { s.accept (BitVec.ofNat 32 (w % 2 ^ nbits)) with engineDelay := 0 }

end Sys2Proof.Machine
end

