-- ==== Sys2Proof/Machine/Step.lean ====
section
/-! DEFINITION. One step of the machine: the ENGINE's, or the outside world's. -/

namespace Sys2Proof.Machine

/-- The next step of the interleaving of HOST events and ENGINE steps (spec R64). -/
def step (s : State) : Host.Outcome State Fault Refusal :=
  if s.engineTurn then s.engineStep else s.hostTurn

/-- `s` with this command word accepted, so that the very next step runs it (log 23). -/
def State.withFetchWord (s : State) (nbits w : Nat) : State := s.pending nbits w

end Sys2Proof.Machine
end

