-- ==== Sys2Proof/Machine/Script.lean ====
section
/-! DEFINITION. Host script statements and pseudo-instructions as events, and the mnemonic text of a command (spec
30_encoding.md, R78 to R80). `expect` and the binding of a read value look at `hostLog`: they are no bus accesses. -/

namespace Sys2Proof.Machine

/-- The offset of a register (spec R21). -/
def Reg.offset : Reg → Nat
  | .id => 0x000 | .ctrl => 0x004 | .status => 0x008 | .errCode => 0x00C | .cmd => 0x010 | .engine => 0x014
  | .rounds => 0x018 | .nkeys => 0x01C | .keySel => 0x020 | .keyLen => 0x024 | .ilen => 0x028 | .olen => 0x02C
  | .arg0 => 0x030 | .arg1 => 0x034 | .numIn0 => 0x038 | .numIn1 => 0x03C | .numIn2 => 0x040 | .numIn3 => 0x044
  | .numOut0 => 0x048 | .numOut1 => 0x04C | .numWidth => 0x050 | .capIbuf => 0x054 | .capObuf => 0x058
  | .capKey => 0x05C

/-- `write REG, v` (spec R79). -/
def scriptWrite (base : Nat) (r : Reg) (v : Nat) : HostOp := .write (base + r.offset) 4 (BitVec.ofNat 32 v)

/-- `write IBUF[j], v` (spec R79). -/
def scriptWriteIbuf (base j v : Nat) : HostOp := .write (base + 0x4000 + 4 * j) 4 (BitVec.ofNat 32 v)

/-- `write KEY[j], v` (spec R79). -/
def scriptWriteKey (base j v : Nat) : HostOp := .write (base + 0x1000 + 4 * j) 4 (BitVec.ofNat 32 v)

/-- `read REG -> x` (spec R79). -/
def scriptRead (base : Nat) (r : Reg) : HostOp := .read (base + r.offset) 4

/-- `cmd MNEMONIC fields` (spec R79). -/
def scriptCmd (base : Nat) (i : Instr) : HostOp := .write (base + Reg.cmd.offset) 4 (encode i)

/-- Writes of a vector's elements from element number j on. -/
def scriptElements (w : Nat → Nat → HostOp) : Nat → Units → List HostOp
  | _, [] => []
  | j, v :: vs => w j v :: scriptElements w (j + 1) vs

/-- `loadkey k, "s"`, with the code points of s (spec R80). -/
def scriptLoadKey (base k : Nat) (cps : Units) : List HostOp :=
  scriptWrite base .keySel k :: scriptWrite base .keyLen cps.length :: scriptElements (scriptWriteKey base) 0 cps

/-- `loadin [v_0, ..., v_(n-1)]` (spec R80). -/
def scriptLoadIn (base : Nat) (v : Units) : List HostOp :=
  scriptWrite base .ilen v.length :: scriptElements (scriptWriteIbuf base) 0 v

/-- `loadin "s"`: the code points of s (spec R80). -/
def scriptLoadInText (base : Nat) (cps : Units) : List HostOp := scriptLoadIn base cps

/-- `loadin bytes "s"`: the UTF-8 bytes of s, whose code points are scalar values (spec R80, R102). -/
def scriptLoadInBytes (base : Nat) (cps : Units) : List HostOp := scriptLoadIn base (cps.flatMap utf8Char)

/-- `loadnum x` (spec R80). -/
def scriptLoadNum (base x : Nat) : List HostOp :=
  [scriptWrite base .numIn0 (x % 2 ^ 32), scriptWrite base .numIn1 (x / 2 ^ 32 % 2 ^ 32),
   scriptWrite base .numIn2 (x / 2 ^ 64 % 2 ^ 32), scriptWrite base .numIn3 (x / 2 ^ 96 % 2 ^ 32)]

/-- `run MNEMONIC fields` (spec R80). -/
def scriptRun (base : Nat) (i : Instr) : List HostOp := [scriptCmd base i, .wait]

/-- `readout -> v`, one event that expands by the value it reads (spec R80). -/
def scriptReadOut : List HostOp := [.readOut]

/-- The accesses of `readnum -> x` (spec R80). -/
def scriptReadNum (base : Nat) : List HostOp := [scriptRead base .numOut0, scriptRead base .numOut1]

/-! ## The values a script binds, from the bus's record before and after it -/

/-- The value of an answer, where it is one of a read. -/
def BusReply.value : BusReply → Option Nat
  | .data w => some w.toNat
  | .ack | .dropped => none

/-- The values read between two records, in the order of the reads. -/
def valuesRead (before after : List BusReply) : Units :=
  (after.take (after.length - before.length)).reverse.filterMap BusReply.value

/-- v of `readout -> v`: what was read after OLEN (spec R80). -/
def readOutValue (before after : List BusReply) : Units := (valuesRead before after).drop 1

/-- x of `readnum -> x`: b * 2^32 + a for the two values a, b read (spec R80). -/
def readNumValue (before after : List BusReply) : Option Nat :=
  match valuesRead before after with
  | [a, b] => some (b * 2 ^ 32 + a)
  | _ => none

/-- The item of field M (spec R78). -/
def scriptMode : Mode → String
  | .cp => " m=cp"
  | .byte => " m=byte"

/-- The item of field F of an FPE command (spec R78). -/
def scriptForm : Form → String
  | .raw => " f=raw"
  | .rendered => " f=text"

/-- The item of field F of DIGEST (spec R78). -/
def scriptDigestForm : Form → String
  | .raw => " f=raw"
  | .rendered => " f=hex"

/-- The item of field W (spec R78). -/
def scriptWidth : Width → String
  | .auto => " w=auto"
  | .two => " w=2"
  | .four => " w=4"
  | .eight => " w=8"

/-- A command as the host script writes it (spec R78). -/
def scriptText : Instr → String
  | .nop => "NOP"
  | .configureBal => "CONFIGURE v=bal"
  | .configureMk => "CONFIGURE v=mk"
  | .configureFpe => "CONFIGURE v=fpe"
  | .extract m => "EXTRACT" ++ scriptMode m
  | .add m => "ADD" ++ scriptMode m
  | .xor m => "XOR" ++ scriptMode m
  | .pad => "PAD"
  | .unpad => "UNPAD"
  | .digest f => "DIGEST" ++ scriptDigestForm f
  | .round m => "ROUND" ++ scriptMode m
  | .b256Enc => "B256_ENC"
  | .b256Dec => "B256_DEC"
  | .balEnc => "BAL_ENC"
  | .balDec => "BAL_DEC"
  | .mkEnc => "MK_ENC"
  | .mkDec => "MK_DEC"
  | .fpeEnc f => "FPE_ENC" ++ scriptForm f
  | .fpeDec f => "FPE_DEC" ++ scriptForm f
  | .fpeEncStr f => "FPE_ENC_STR" ++ scriptForm f
  | .fpeDecStr f => "FPE_DEC_STR" ++ scriptForm f
  | .numEnc w => "NUM_ENC" ++ scriptWidth w
  | .numDec w => "NUM_DEC" ++ scriptWidth w

end Sys2Proof.Machine
end

