-- ==== Sys2Proof/Safety.lean ====
section
/-! DEFINITION. What a good state of the FRE is: the facts every run keeps, in the terms the statements use. -/

namespace Sys2Proof.Machine

/-- A good state. Each field is a fact of the spec about every state a run reaches; the step keeps them together. -/
structure State.Good (s : State) : Prop where
  /-- The parameters are in their ranges and the table conforms (spec R9, R126). -/
  params : s.params.legal
  /-- There are NKEYS_MAX key lengths (spec R40). -/
  slots : s.keyLen.length = s.params.nkeysMax
  /-- The three memories are in canonical form. -/
  keyWf : Memory.wf s.key
  /-- See `keyWf`. -/
  ibufWf : Memory.wf s.ibuf
  /-- See `keyWf`. -/
  obufWf : Memory.wf s.obuf
  /-- Written key bytes lie in words j below KEY_DEPTH of slots k below NKEYS_MAX (spec R40). -/
  keyIn : ∀ c ∈ s.key, c.1 / 0x40000 < s.params.nkeysMax ∧ c.1 % 0x40000 < 4 * s.params.keyDepth
  /-- Written IBUF bytes lie below IBUF_DEPTH words (spec R41). -/
  ibufIn : ∀ c ∈ s.ibuf, c.1 < 4 * s.params.ibufDepth
  /-- Written OBUF bytes lie below OLEN words (spec R42, R198). -/
  obufIn : ∀ c ∈ s.obuf, c.1 < 4 * s.olen.toNat
  /-- OLEN never passes OBUF_DEPTH (spec R42, R85). -/
  olenIn : s.olen.toNat ≤ s.params.obufDepth
  /-- While busy, DONE = ERR = 0 and ERRCODE = 0 (spec R24, R45). -/
  busyClear : s.status.busy = true → s.status.done = false ∧ s.status.err = false ∧ s.errCode = 0
  /-- No command is pending while `rst` is asserted (spec R190). -/
  idleInReset : s.rst = true → s.status.busy = false
  /-- ERRCODE holds 0 or a code of spec R172. -/
  codeKnown : s.errCode = 0 ∨ ∃ e : ErrCode, s.errCode = e.code
  /-- ERR = 1 comes with its cause in ERRCODE (spec R46, R181). -/
  errHasCode : s.status.err = true → s.errCode ≠ 0
  /-- While CFG_VALID = 1 the configuration registers pass the checks of the latched variant (spec R47, R86). -/
  configured : s.status.cfgValid = true → s.checkConfig s.status.cfgVar = .ok ()
  /-- CFG_VAR reads 0 while CFG_VALID = 0 (spec R47, R94). -/
  unlatched : s.status.cfgValid = false → s.status.cfgVar = .bal
  /-- NUM_WIDTH is 0, 2, 4 or 8 (spec R37). -/
  widthKnown : s.numWidth = 0 ∨ s.numWidth = 2 ∨ s.numWidth = 4 ∨ s.numWidth = 8

/-- The events that can come while a command is pending, those before the first `wait`, are ones the FRE admits (spec R59,
R62). Of a `readout`, whose reads are still to come, only that a window at a multiple of 4 makes them aligned (R9). -/
def State.queueAdmitted (s : State) : Prop :=
  ∀ op ∈ s.hostQueue.takeWhile (· != .wait),
    match op with
    | .read a n => s.inWindow a = true ∧ admitted a n = true
    | .write a n _ => s.inWindow a = true ∧ admitted a n = true
    | .wait => True
    | .readOut => s.params.base % 4 = 0
    | .rst _ => True

/-- A safe step: one that meets no HOST fault. -/
def State.stepSafe (s : State) : Prop := ∃ t, step s = .next t

/-! ## The words of the statements -/

/-- The rows of spec R74 and R75, (match, mask). -/
def commandRows : List (Word × Word) :=
  [(0x00000000, 0xFFFFFFFF), (0x00000001, 0xFFFFFFFF), (0x00001001, 0xFFFFFFFF), (0x00002001, 0xFFFFFFFF),
   (0x00000008, 0xFFFFFDFF), (0x00000009, 0xFFFFFDFF), (0x0000000A, 0xFFFFFDFF), (0x0000000B, 0xFFFFFFFF),
   (0x0000000C, 0xFFFFFFFF), (0x00000010, 0xFFFFFEFF), (0x00000011, 0xFFFFFDFF), (0x00000018, 0xFFFFFFFF)] ++
  [(0x00000019, 0xFFFFFFFF), (0x00000020, 0xFFFFFFFF), (0x00000021, 0xFFFFFFFF), (0x00000022, 0xFFFFFFFF),
   (0x00000023, 0xFFFFFFFF), (0x00000028, 0xFFFFFEFF), (0x00000029, 0xFFFFFEFF), (0x0000002A, 0xFFFFFEFF),
   (0x0000002B, 0xFFFFFEFF), (0x00000030, 0xFFFFF3FF), (0x00000031, 0xFFFFF3FF)]

/-- The class of a command, none for NOP (spec R174). -/
def commandClass : Instr → Option CmdClass
  | .nop => none
  | .configureBal | .configureMk | .configureFpe => some .configure
  | .numEnc _ | .numDec _ => some .number
  | .extract _ | .add _ | .xor _ | .pad | .unpad | .digest _ | .round _ | .b256Enc | .b256Dec
  | .balEnc | .balDec | .mkEnc | .mkDec | .fpeEnc _ | .fpeDec _ | .fpeEncStr _ | .fpeDecStr _ => some .output

/-- The codes a command can raise: the column "raised by" of spec R172, read with each command's own "Exceptions, in
order". 0xE2 is UNPAD's too, by R172 (log 25). -/
def listedErrors : Instr → List ErrCode
  | .nop => []
  | .configureBal => [.capacityIn, .keyEmpty, .badUnit, .roundsLow]
  | .configureMk => [.nkeysLow, .capacityIn, .keyEmpty, .badUnit]
  | .configureFpe => [.engineBad, .capacityIn, .keyEmpty, .badUnit, .roundsLow]
  | .extract .cp => [.capacityIn, .keyEmpty, .capacityOut]
  | .extract .byte => [.capacityIn, .unencodable, .keyEmpty, .capacityOut]
  | .add _ | .xor _ => [.capacityIn, .badUnit, .lengthMismatch, .capacityOut]
  | .pad | .b256Enc => [.capacityIn, .badUnit, .capacityOut]
  | .unpad => [.capacityIn, .badUnit, .capacityOut]
  | .digest _ => [.engineBad, .capacityIn, .badUnit, .capacityOut]
  | .round _ => [.engineBad, .capacityIn, .badUnit, .unencodable, .keyEmpty, .capacityOut]
  | .b256Dec => [.capacityIn, .ctBadChar, .capacityOut]
  | .balEnc | .mkEnc => [.notConfigured, .capacityIn, .badUnit, .unencodable, .capacityOut]
  | .balDec | .mkDec =>
    [.notConfigured, .capacityIn, .badUnit, .ctOdd, .ctBadUtf8, .unencodable, .lengthMismatch, .capacityOut]
  | .fpeEnc _ | .fpeEncStr _ => [.notConfigured, .capacityIn, .badUnit, .capacityOut]
  | .fpeDec .raw => [.notConfigured, .capacityIn, .badUnit, .capacityOut]
  | .fpeDec .rendered => [.notConfigured, .capacityIn, .ctBadChar, .capacityOut]
  | .fpeDecStr .raw => [.notConfigured, .capacityIn, .badUnit, .ctBadUtf8, .capacityOut]
  | .fpeDecStr .rendered => [.notConfigured, .capacityIn, .ctBadChar, .ctBadUtf8, .capacityOut]
  | .numEnc _ | .numDec _ => [.notConfigured, .magnitude, .widthFit]

/-- `s` after a completion that writes nothing (spec R46). -/
def State.afterDone (s : State) : State := { s with status := { s.status with busy := false, done := true } }

/-- `s` after an output command wrote `v` and completed: OBUF holds `v`, the words beyond are drawn anew, OLEN is its
length, BUSY and DONE as at every completion, all else as before (spec R42, R46). -/
def State.afterOutput (s : State) (v : Units) : State :=
  { s with
    obuf := Memory.writeUnits [] 0 v, olen := BitVec.ofNat 16 v.length, obufEpoch := s.draws, draws := s.draws + 1,
    status := { s.status with busy := false, done := true } }

/-- `s` after a number command wrote `y` of width `w` and completed (spec R36, R37, R46). -/
def State.afterNumber (s : State) (y w : Nat) : State :=
  { s with
    numOut0 := BitVec.ofNat 32 y, numOut1 := BitVec.ofNat 32 (y / 2 ^ 32), numWidth := BitVec.ofNat 4 w,
    status := { s.status with busy := false, done := true } }

/-- `s` after CONFIGURE latched a variant and completed (spec R46, R93). -/
def State.afterLatch (s : State) (v : Variant) : State :=
  { s with status := { s.status with busy := false, done := true, cfgValid := true, cfgVar := v } }

/-- `s` after an output command ended with `e` (spec R46, R174): OLEN 0, every OBUF word drawn anew. -/
def State.afterOutputError (s : State) (e : ErrCode) : State :=
  { s with
    obuf := [], olen := 0, obufEpoch := s.draws, draws := s.draws + 1, errCode := e.code,
    status := { s.status with busy := false, done := true, err := true } }

/-- `s` after a number command ended with `e` (spec R46, R174). -/
def State.afterNumberError (s : State) (e : ErrCode) : State :=
  { s with
    numOut0 := 0, numOut1 := 0, numWidth := 0, errCode := e.code,
    status := { s.status with busy := false, done := true, err := true } }

/-- `s` after CONFIGURE ended with `e` (spec R46, R94). -/
def State.afterConfigError (s : State) (e : ErrCode) : State :=
  { s with
    errCode := e.code,
    status := { s.status with busy := false, done := true, err := true, cfgValid := false, cfgVar := .bal } }

/-- The input fits IBUF and every unit of it passes the check (spec R82, R83). -/
def State.inputOk (s : State) (p : Nat → Bool) : Prop :=
  s.ilen.toNat ≤ s.params.ibufDepth ∧ ∀ j < s.ilen.toNat, p (s.ibufWord j).toNat = true

/-- The key slot k can be used: it exists and its length fits (spec R84). -/
def State.slotOk (s : State) (k : Nat) : Prop :=
  k < s.params.nkeysMax ∧ (s.keyLenOf k).toNat ≤ s.params.keyDepth

/-- The key slot k holds a key string: usable, not empty, all scalar values (spec R90). -/
def State.keyOk (s : State) (k : Nat) : Prop :=
  s.slotOk k ∧ 0 < (s.keyLenOf k).toNat ∧ ∀ j < (s.keyLenOf k).toNat, isScalar (s.keyWord k j).toNat = true

/-- The latched configuration is of variant v (spec R86). -/
def State.latched (s : State) (v : Variant) : Prop := s.status.cfgValid = true ∧ s.status.cfgVar = v

end Sys2Proof.Machine
end

