-- ==== Sys2Proof/Certificates/Slice0/Obligations.lean ====
section
/-! DEFINITION. The statements for the provers. Each docstring says which rules of spec/ it formalises. -/

open Sys2Proof Sys2Proof.Machine

/-! ## Encoding -/

/-- Decoding a command's word gives the command back, and a word that decodes is the word of its command: no bit of an
encoding is dropped and no command has two words (30_encoding.md R74, R75). -/
def Obligations.DecodeAndEncodeAreInverse : Prop :=
  (∀ i : Instr, decode (encode i) = .ok i) ∧ ∀ (w : Word) (i : Instr), decode w = .ok i → encode i = w

/-- R76 and R77, with the rows of R75: a word decodes exactly when some row selects it; no two rows select one word; and
the illegal words are the four kinds (a) to (d). -/
def Obligations.EveryWordIsOneRowOrIllegal : Prop :=
  (∀ w : Word, (∃ i, decode w = .ok i) ↔ ∃ r ∈ commandRows, w &&& r.2 = r.1) ∧
    (commandRows.Pairwise fun a b => ∀ w : Word, ¬ (w &&& a.2 = a.1 ∧ w &&& b.2 = b.1)) ∧
    ∀ w : Word, (∃ e, decode w = .error e) ↔
      ((opcodeMap.lookup (w.toNat % 256) = none) ∨ w.toNat / 2 ^ 14 ≠ 0 ∨ (fieldsOf w).unlistedZero = false ∨
        (w.toNat % 256 = 1 ∧ w.toNat / 2 ^ 12 % 4 = 3))

/-- R81: the encoding examples and the four illegal words. -/
def Obligations.EncodingExamplesDecodeAsWritten : Prop :=
  decode 0x00000000 = .ok .nop ∧ decode 0x00000001 = .ok .configureBal ∧ decode 0x00001001 = .ok .configureMk ∧
  decode 0x00000208 = .ok (.extract .byte) ∧ decode 0x00000110 = .ok (.digest .rendered) ∧
  decode 0x00000021 = .ok .balDec ∧ decode 0x00000129 = .ok (.fpeDec .rendered) ∧
  decode 0x00000031 = .ok (.numDec .auto) ∧ decode 0x00000C30 = .ok (.numEnc .eight) ∧
  decode 0x00000002 = .error .unassignedOp ∧ decode 0x00000120 = .error .unlistedField ∧
  decode 0x00003001 = .error .reservedVariant ∧ decode 0x00010000 = .error .reservedBits

/-! ## The step -/

/-- The ENGINE's turn runs the command in CMD, and any other turn is the outside world's (10_state.md R46, 20_memory.md
R64), which takes the first event left, in program order; on a word that decodes to no command the ENGINE's turn is the error
0xE0 (R46, R76, R174). The turn itself, by the drawn delay, which each event lowers, is the model's (log 2). An idle FRE with no event left stays as it is: R189 gives it no transition, and that
the model's step is then a self-loop is its choice (log 19). `withFetchWord` makes the next step run its word (log 23). -/
def Obligations.StepRunsThePendingCommand : Prop :=
  (∀ (s : State) (i : Instr), s.status.busy = true → (s.engineDelay = 0 ∨ s.hostQueue = []) → decode s.cmd = .ok i →
    step s = exec i s) ∧
  (∀ (s : State) (e : Illegal), s.status.busy = true → (s.engineDelay = 0 ∨ s.hostQueue = []) →
    decode s.cmd = .error e → step s = .next { s with
      errCode := 0xE0, status := { s.status with busy := false, done := true, err := true } }) ∧
  (∀ s : State, (s.status.busy = false ∨ (s.engineDelay ≠ 0 ∧ s.hostQueue ≠ [])) → step s = s.hostTurn) ∧
  (∀ (s : State) (op : HostOp) (q : List HostOp), (s.status.busy = false ∨ s.engineDelay ≠ 0) → s.hostQueue = op :: q →
    step s = State.hostEvent { s with hostQueue := q, engineDelay := s.engineDelay - 1 } op) ∧
  (∀ s : State, s.hostQueue = [] → s.status.busy = false → step s = .next s) ∧
  (∀ (s : State) (i : Instr), step (s.withFetchWord 32 (encode i).toNat) = exec i (s.withFetchWord 32 (encode i).toNat))

/-- R45: the accept, a write to CMD while idle: CMD, STATUS and ERRCODE as the rule lists, and of the FRE's other state
nothing changes; an illegal word is accepted too and fails at completion. How the model draws the latency is left open
here (`d`, `n`; log 2). -/
def Obligations.CommandWriteIsAccepted : Prop :=
  ∀ (s : State) (w : Word), s.status.busy = false →
    (∃ d n : Nat, s.hostWrite 0x010 w = { s with
      cmd := w, errCode := 0, status := { s.status with busy := true, done := false, err := false },
      engineDelay := d, draws := n, hostLog := .ack :: s.hostLog }) ∧
    ((fieldsOf w).legal = false → (s.hostWrite 0x010 w).engineStep = .next { s.hostWrite 0x010 w with
      errCode := 0xE0, status := { s.status with busy := false, done := true, err := true } })

/-! ## The register window -/

/-- R44: a write while busy to CMD, ENGINE, ROUNDS, NKEYS, KEYSEL, KEYLEN, ILEN, ARG0, ARG1, NUM_IN0..3, a KEYWIN word
or an IBUF word is ignored and sets OVR. That KEYLEN does so where KEYSEL names no slot too is the model's reading of R44
against R31 (log 8). -/
def Obligations.BusyWindowIgnoresOperandWrites : Prop :=
  ∀ (s : State) (off : Nat) (v : Word), s.status.busy = true →
    (off ∈ [0x010, 0x014, 0x018, 0x01C, 0x020, 0x024, 0x028, 0x030, 0x034, 0x038, 0x03C, 0x040, 0x044] ∨
      (∃ j < s.params.keyDepth, j < 1024 ∧ s.keySel.toNat < s.params.nkeysMax ∧ off = 0x1000 + 4 * j) ∨
      (∃ j < s.params.ibufDepth, j < 4096 ∧ off = 0x4000 + 4 * j)) →
    s.hostWrite off v = { s with status := { s.status with ovr := true }, hostLog := .ack :: s.hostLog }

/-- R43 (with R40, R41, R42): a reserved offset reads 0 and ignores writes; a read-only register or OBUF word ignores
writes; busy or not. -/
def Obligations.ReservedOffsetsReadZeroAndIgnoreWrites : Prop :=
  ∀ (s : State) (off : Nat) (v : Word), off % 4 = 0 →
    (((0x060 ≤ off ∧ off < 0x1000) ∨ (0x2000 ≤ off ∧ off < 0x4000) ∨
        (0x1000 ≤ off ∧ off < 0x2000 ∧ (s.params.keyDepth ≤ (off - 0x1000) / 4 ∨ s.params.nkeysMax ≤ s.keySel.toNat)) ∨
        (0x4000 ≤ off ∧ off < 0x8000 ∧ s.params.ibufDepth ≤ (off - 0x4000) / 4) ∨
        (0x8000 ≤ off ∧ off < 0x10000 ∧ s.params.obufDepth ≤ (off - 0x8000) / 4)) →
      s.hostRead off = { s with hostLog := .data 0 :: s.hostLog } ∧
        s.hostWrite off v = { s with hostLog := .ack :: s.hostLog }) ∧
    ((off ∈ [0x000, 0x00C, 0x02C, 0x048, 0x04C, 0x050, 0x054, 0x058, 0x05C] ∨ (0x8000 ≤ off ∧ off < 0x10000)) →
      s.hostWrite off v = { s with hostLog := .ack :: s.hostLog })

/-- R47, R196: the writes that clear CFG_VALID and CFG_VAR; the writes to KEYSEL, ILEN, ARG0, ARG1, NUM_IN and IBUF (and to
KEYLEN where KEYSEL names no slot) that do not; and that only a CONFIGURE without error sets CFG_VALID. -/
def Obligations.ConfigurationWritesInvalidate : Prop :=
  (∀ (s : State) (off : Nat) (v : Word), s.status.busy = false →
    (off ∈ [0x014, 0x018, 0x01C] ∨ (off = 0x024 ∧ s.keySel.toNat < s.params.nkeysMax) ∨
      (∃ j < s.params.keyDepth, j < 1024 ∧ s.keySel.toNat < s.params.nkeysMax ∧ off = 0x1000 + 4 * j)) →
    (s.hostWrite off v).status = { s.status with cfgValid := false, cfgVar := .bal }) ∧
  (∀ (s : State) (off : Nat) (v : Word), s.status.busy = false →
    (off ∈ [0x020, 0x028, 0x030, 0x034, 0x038, 0x03C, 0x040, 0x044] ∨
      (off = 0x024 ∧ s.params.nkeysMax ≤ s.keySel.toNat) ∨
      (∃ j < s.params.ibufDepth, j < 4096 ∧ off = 0x4000 + 4 * j)) →
    (s.hostWrite off v).status = s.status) ∧
  (∀ (i : Instr) (s t : State), s.status.cfgValid = false → exec i s = .next t → t.status.cfgValid = true →
    ∃ v, (i = .configureBal ∧ v = .bal ∨ i = .configureMk ∧ v = .mk ∨ i = .configureFpe ∧ v = .fpe) ∧
      s.checkConfig v = .ok () ∧ t = s.afterLatch v) ∧
  (∀ (op : HostOp) (s t : State), s.status.cfgValid = false → s.hostEvent op = .next t → t.status.cfgValid = false)

/-- R38: what a RW register reads after a write is the bits of its fields, whatever was written: KEYLEN has no field
where KEYSEL names no slot (R31), and CTRL reads 0 after a soft reset (R23, R54). The frame, by R61: an idle write to a
register stores its field and has no other effect but the ones R61 lists, CMD's accept (R45), the clearing of CFG_VALID
(R47) and a soft reset through CTRL (R54). CMD's whole next state is CommandWriteIsAccepted, CTRL's with SRST = 1
ResetLeavesTheStatedValues. -/
def Obligations.RegistersStoreOnlyTheirFieldBits : Prop :=
  ∀ (s : State) (v : Word), s.status.busy = false →
    (∀ e ∈ [((0x010 : Nat), (0xFFFFFFFF : Word)), (0x014, 0xFF), (0x018, 0xFFFFFFFF), (0x01C, 0xFF), (0x020, 0xFF),
        (0x028, 0xFFFF), (0x030, 0xFFFFFFFF), (0x034, 0xFFFFFFFF), (0x038, 0xFFFFFFFF), (0x03C, 0xFFFFFFFF),
        (0x040, 0xFFFFFFFF), (0x044, 0xFFFFFFFF)],
      ((s.hostWrite e.1 v).hostRead e.1).hostLog = .data (v &&& e.2) :: .ack :: s.hostLog) ∧
    (s.keySel.toNat < s.params.nkeysMax → s.keyLen.length = s.params.nkeysMax →
      ((s.hostWrite 0x024 v).hostRead 0x024).hostLog = .data (v &&& 0xFFFF) :: .ack :: s.hostLog) ∧
    (s.params.nkeysMax ≤ s.keySel.toNat →
      ((s.hostWrite 0x024 v).hostRead 0x024).hostLog = .data 0 :: .ack :: s.hostLog) ∧
    (v.getLsbD 0 = false → ((s.hostWrite 0x004 v).hostRead 0x004).hostLog = .data (v &&& 2) :: .ack :: s.hostLog) ∧
    (v.getLsbD 0 = true → ((s.hostWrite 0x004 v).hostRead 0x004).hostLog = .data 0 :: .ack :: s.hostLog) ∧
    (let a : State := { s with hostLog := .ack :: s.hostLog }
     let c : State := { a with status := { s.status with cfgValid := false, cfgVar := .bal } }
     s.hostWrite 0x014 v = { c with engine := v.setWidth 8 } ∧
     s.hostWrite 0x018 v = { c with rounds := v } ∧
     s.hostWrite 0x01C v = { c with nkeys := v.setWidth 8 } ∧
     s.hostWrite 0x020 v = { a with keySel := v.setWidth 8 } ∧
     (s.keySel.toNat < s.params.nkeysMax →
       s.hostWrite 0x024 v = { c with keyLen := s.keyLen.set s.keySel.toNat (v.setWidth 16) }) ∧
     (s.params.nkeysMax ≤ s.keySel.toNat → s.hostWrite 0x024 v = a) ∧
     s.hostWrite 0x028 v = { a with ilen := v.setWidth 16 } ∧
     s.hostWrite 0x030 v = { a with arg0 := v } ∧
     s.hostWrite 0x034 v = { a with arg1 := v } ∧
     s.hostWrite 0x038 v = { a with numIn0 := v } ∧
     s.hostWrite 0x03C v = { a with numIn1 := v } ∧
     s.hostWrite 0x040 v = { a with numIn2 := v } ∧
     s.hostWrite 0x044 v = { a with numIn3 := v } ∧
     (v.getLsbD 0 = false → s.hostWrite 0x004 v = { a with irqEn := v.getLsbD 1 }))

/-- R40, R41, R61: an idle write to a KEYWIN or IBUF word makes that word read what was written and leaves the storage's
other words; of the FRE's other state an IBUF write changes nothing, and a KEYWIN write clears the configuration (R47).
R42, R56, R85: after an output command wrote `v` OLEN is its length, OBUF word j below it element j, zero-extended, and a word
from there on is unspecified (U3), as every word is after an output command's error (R174): in the model a free value of
that completion's draw (log 6). -/
def Obligations.BufferWordsReadBack : Prop :=
  (∀ (s : State) (j : Nat) (v : Word), s.status.busy = false → j < s.params.ibufDepth → j < 4096 →
    ∃ m : Memory, s.hostWrite (0x4000 + 4 * j) v = { s with ibuf := m, hostLog := .ack :: s.hostLog } ∧
      (s.hostWrite (0x4000 + 4 * j) v).ibufWord j = v ∧
      ∀ x, x ≠ j → (s.hostWrite (0x4000 + 4 * j) v).ibufWord x = s.ibufWord x) ∧
  (∀ (s : State) (j : Nat) (v : Word), s.status.busy = false → j < s.params.keyDepth → j < 1024 →
    s.keySel.toNat < s.params.nkeysMax →
    ∃ m : Memory, s.hostWrite (0x1000 + 4 * j) v = { s with
        key := m, status := { s.status with cfgValid := false, cfgVar := .bal }, hostLog := .ack :: s.hostLog } ∧
      (s.hostWrite (0x1000 + 4 * j) v).keyWord s.keySel.toNat j = v ∧
      ∀ k x, x < 65536 → ¬ (k = s.keySel.toNat ∧ x = j) →
        (s.hostWrite (0x1000 + 4 * j) v).keyWord k x = s.keyWord k x) ∧
  (∀ (s : State) (v : Units), s.params.legal → v.length ≤ s.params.obufDepth →
    (s.afterOutput v).olen.toNat = v.length ∧
      ∀ j, (j < v.length → (s.afterOutput v).obufWord j = BitVec.ofNat 32 (v.getD j 0)) ∧
        (v.length ≤ j →
          (s.afterOutput v).obufWord j = Memory.readWord [] (Config.freeByte .obuf s.draws) (4 * j))) ∧
  ∀ (s : State) (e : ErrCode), (s.afterOutputError e).olen = 0 ∧
    ∀ j, (s.afterOutputError e).obufWord j = Memory.readWord [] (Config.freeByte .obuf s.draws) (4 * j)

/-- R24: the bits of STATUS and the W1C writes, honoured while busy and idle. -/
def Obligations.StatusReadsAndClearsByWritingOne : Prop :=
  (∀ (s : State) (n : Nat), (s.readReg .status).getLsbD n =
    (if n = 0 then s.status.busy else if n = 1 then s.status.done else if n = 2 then s.status.err
     else if n = 3 then s.status.ovr else if n = 4 then s.status.cfgValid
     else if n = 5 then decide (s.status.cfgVar = .mk) else if n = 6 then decide (s.status.cfgVar = .fpe) else false)) ∧
  (∀ (s : State) (v : Word), s.hostWrite 0x008 v = { s with
    status := { s.status with
      done := if v.getLsbD 1 then false else s.status.done,
      err := if v.getLsbD 2 then false else s.status.err,
      ovr := if v.getLsbD 3 then false else s.status.ovr },
    hostLog := .ack :: s.hostLog })

/-- R54, R190, R192: what a hardware reset and a soft reset through CTRL leave, busy or not. The unspecified words are
the model's unwritten ones (log 6). That `rst` is a level whose release changes nothing else is the model's form (log 11). -/
def Obligations.ResetLeavesTheStatedValues : Prop :=
  ∀ s : State,
    let r : State := { s with
      irqEn := false, status := ⟨false, false, false, false, false, .bal⟩, errCode := 0, cmd := 0, engine := 0xFF,
      rounds := 0, nkeys := 0, keySel := 0, keyLen := List.replicate s.params.nkeysMax 0, ilen := 0, olen := 0,
      arg0 := 0, arg1 := 0, numIn0 := 0, numIn1 := 0, numIn2 := 0, numIn3 := 0, numOut0 := 0, numOut1 := 0,
      numWidth := 0, key := [], ibuf := [], obuf := [], memEpoch := s.draws, obufEpoch := s.draws,
      draws := s.draws + 1, engineDelay := 0 }
    s.hostEvent (.rst true) = .next { r with rst := true } ∧
    s.hostEvent (.rst false) = .next { s with rst := false } ∧
    (∀ v : Word, v.getLsbD 0 = true → s.hostWrite 0x004 v = { r with hostLog := .ack :: s.hostLog }) ∧
    r.irq = false ∧ (∀ k, r.keyLenOf k = 0) ∧
    (∀ j, r.ibufWord j = Memory.readWord [] (Config.freeByte .ibuf s.draws) (4 * j)) ∧
    (∀ j, r.obufWord j = Memory.readWord [] (Config.freeByte .obuf s.draws) (4 * j)) ∧
    (∀ k j, r.keyWord k j = Memory.readWord [] (Config.freeByte .key s.draws) (keyAddr k j))

/-- R48, R179: `irq` is IRQ_EN AND DONE; every completion raises it where IRQ_EN = 1; a W1C of DONE, an accept, a reset
and IRQ_EN = 0 lower it; IRQ_EN = 1 raises it where DONE = 1; writing IRQ_EN does not change DONE, nor anything else of
the FRE (R61). -/
def Obligations.InterruptLineFollowsDone : Prop :=
  (∀ s : State, s.irq = true ↔ s.irqEn = true ∧ s.status.done = true) ∧
  (∀ s t : State, s.engineStep = .next t → t.irq = s.irqEn) ∧
  (∀ (s : State) (v : Word), v.getLsbD 1 = true → (s.hostWrite 0x008 v).irq = false) ∧
  (∀ (s : State) (v : Word), s.status.busy = false → (s.hostWrite 0x010 v).irq = false) ∧
  (∀ s t : State, s.hostEvent (.rst true) = .next t → t.irq = false) ∧
  (∀ (s : State) (v : Word), v.getLsbD 0 = true → (s.hostWrite 0x004 v).irq = false) ∧
  (∀ (s : State) (v : Word), v.getLsbD 0 = false → (s.hostWrite 0x004 v).irq = (v.getLsbD 1 && s.status.done) ∧
    s.hostWrite 0x004 v = { s with irqEn := v.getLsbD 1, hostLog := .ack :: s.hostLog })

/-- R61, R50, with R22 to R42 and R80: a read changes nothing of the FRE and returns the current value: of every register
but the results, of KEYWIN and of IBUF busy or idle; of the results and of OBUF while idle. While busy those return a free
value, which takes a draw and keeps the register's width (log 7). The steps of `readout` and `readnum` on an idle FRE
change nothing but the bus's record, and the values a script binds are OUT and NUM_OUT (log 16). -/
def Obligations.ReadsHaveNoSideEffect : Prop :=
  (∀ (s : State) (off : Nat), s.status.busy = false →
    ∃ w, s.hostRead off = { s with hostLog := .data w :: s.hostLog }) ∧
  (∀ (s : State) (off : Nat),
    ∃ w n, s.hostRead off = { s with hostLog := .data w :: s.hostLog, draws := n }) ∧
  (∀ s : State, ∀ e ∈ [((0x000 : Nat), (0x46524531 : Word)), (0x004, if s.irqEn then 2 else 0), (0x008, s.status.word),
      (0x010, s.cmd), (0x014, s.engine.setWidth 32), (0x018, s.rounds), (0x01C, s.nkeys.setWidth 32),
      (0x020, s.keySel.setWidth 32),
      (0x024, if s.keySel.toNat < s.params.nkeysMax then (s.keyLenOf s.keySel.toNat).setWidth 32 else 0),
      (0x028, s.ilen.setWidth 32), (0x030, s.arg0), (0x034, s.arg1), (0x038, s.numIn0), (0x03C, s.numIn1),
      (0x040, s.numIn2), (0x044, s.numIn3)],
    s.hostRead e.1 = { s with hostLog := .data e.2 :: s.hostLog }) ∧
  (∀ s : State, s.params.legal → ∀ e ∈ [((0x054 : Nat), s.params.ibufDepth), (0x058, s.params.obufDepth),
      (0x05C, s.params.nkeysMax * 2 ^ 16 + s.params.keyDepth)],
    s.hostRead e.1 = { s with hostLog := .data (BitVec.ofNat 32 e.2) :: s.hostLog }) ∧
  (∀ s : State, s.status.busy = false → ∀ e ∈ [((0x00C : Nat), s.errCode.setWidth 32), (0x02C, s.olen.setWidth 32),
      (0x048, s.numOut0), (0x04C, s.numOut1), (0x050, s.numWidth.setWidth 32)],
    s.hostRead e.1 = { s with hostLog := .data e.2 :: s.hostLog }) ∧
  (∀ s : State, s.status.busy = true → ∀ e ∈ [((0x00C : Nat), 8), (0x02C, 16), (0x048, 32), (0x04C, 32), (0x050, 4)],
    ∃ w : Word, w.toNat < 2 ^ e.2 ∧
      s.hostRead e.1 = { s with hostLog := .data w :: s.hostLog, draws := s.draws + 1 }) ∧
  (∀ (s : State) (j : Nat), j < s.params.keyDepth → j < 1024 → s.keySel.toNat < s.params.nkeysMax →
    s.hostRead (0x1000 + 4 * j) = { s with hostLog := .data (s.keyWord s.keySel.toNat j) :: s.hostLog }) ∧
  (∀ (s : State) (j : Nat), j < s.params.ibufDepth → j < 4096 →
    s.hostRead (0x4000 + 4 * j) = { s with hostLog := .data (s.ibufWord j) :: s.hostLog }) ∧
  (∀ (s : State) (j : Nat), s.status.busy = false → j < s.params.obufDepth → j < 8192 →
    s.hostRead (0x8000 + 4 * j) = { s with hostLog := .data (s.obufWord j) :: s.hostLog }) ∧
  ∀ (s : State) (q : List HostOp), s.params.legal → s.status.busy = false → s.rst = false →
    (s.olen.toNat ≤ s.params.obufDepth → s.hostQueue = scriptReadOut ++ q →
      ∃ log : List BusReply, Host.Core.run Sys2Proof.core (s.olen.toNat + 1) s =
          .next { s with hostQueue := q, engineDelay := s.engineDelay - (s.olen.toNat + 1), hostLog := log } ∧
        readOutValue s.hostLog log = (List.range s.olen.toNat).map fun j => (s.obufWord j).toNat) ∧
    (s.hostQueue = scriptReadNum s.params.base ++ q →
      ∃ log : List BusReply, Host.Core.run Sys2Proof.core 2 s =
          .next { s with hostQueue := q, engineDelay := s.engineDelay - 2, hostLog := log } ∧
        readNumValue s.hostLog log = some s.numOut)

/-- R59, R21, R64: with `rst` released an aligned 32-bit access in the window is performed, busy or idle, at its offset from
BASE (the other statements say what `hostRead` and `hostWrite` do there). R79: a turn of a `wait` loop reads STATUS and comes
again while BUSY = 1. R80: a `readout` reads OLEN, and as many OBUF words are read next; while busy that OLEN is a free value
(R50; log 7). That the two are events of the queue is the model's form (log 16). R59, R183: an access in the window that is not four bytes wide at a multiple of four is a HOST fault. R190, U12: an
access made while `rst` is asserted has no effect, a turn of a `wait` loop and a `readout` neither (R79, R80: they begin with
an access). That the bus's record notes the latter (log 11), the fault of an access outside the window (log 10), and that an
access of both kinds is dropped and is no fault (log 26), are the model's. -/
def Obligations.RefusedAccessesChangeNothing : Prop :=
  ∀ (s : State) (addr bytes : Nat) (v : Word),
    (s.rst = false → s.params.base ≤ addr → addr < s.params.base + 0x10000 → addr % 4 = 0 →
      s.hostEvent (.read addr 4) = .next (s.hostRead (addr - s.params.base)) ∧
      s.hostEvent (.write addr 4 v) = .next (s.hostWrite (addr - s.params.base) v)) ∧
    (s.rst = false → s.hostEvent .wait = .next { s with
      hostQueue := if s.status.busy then .wait :: s.hostQueue else s.hostQueue,
      hostLog := .data s.status.word :: s.hostLog }) ∧
    (s.rst = false → ∃ (n : BitVec 16) (d : Nat), (s.status.busy = false → n = s.olen ∧ d = s.draws) ∧
      s.hostEvent .readOut = .next { s with
        hostQueue := ((List.range n.toNat).map fun j => .read (s.params.base + 0x8000 + 4 * j) 4) ++ s.hostQueue,
        hostLog := .data (n.setWidth 32) :: s.hostLog, draws := d }) ∧
    (s.rst = false → s.params.base ≤ addr → addr < s.params.base + 0x10000 → ¬ (bytes = 4 ∧ addr % 4 = 0) →
      s.hostEvent (.read addr bytes) = .fault .busError ∧ s.hostEvent (.write addr bytes v) = .fault .busError) ∧
    (s.rst = false → ¬ (s.params.base ≤ addr ∧ addr < s.params.base + 0x10000) →
      s.hostEvent (.read addr bytes) = .fault .outsideWindow ∧
      s.hostEvent (.write addr bytes v) = .fault .outsideWindow) ∧
    (s.rst = true →
      s.hostEvent (.read addr bytes) = .next { s with hostLog := .dropped :: s.hostLog } ∧
      s.hostEvent (.write addr bytes v) = .next { s with hostLog := .dropped :: s.hostLog } ∧
      s.hostEvent .wait = .next { s with hostLog := .dropped :: s.hostLog } ∧
      s.hostEvent .readOut = .next { s with hostLog := .dropped :: s.hostLog })

/-- R65: once idle, the results stay until the next accept or reset. R65 names the OBUF words below OLEN: that a word at or
beyond OLEN keeps its unspecified value until the next output command or reset is the model's reading of U3 (log 6). -/
def Obligations.ResultsStayUntilAcceptOrReset : Prop :=
  ∀ (op : HostOp) (s t : State), s.status.busy = false → s.hostEvent op = .next t →
    (∀ addr bytes v, op = .write addr bytes v → addr ≠ s.params.base + 0x010 ∧
      (addr = s.params.base + 0x004 → v.getLsbD 0 = false)) →
    op ≠ .rst true →
    t.olen = s.olen ∧ (∀ j, t.obufWord j = s.obufWord j) ∧ t.numOut0 = s.numOut0 ∧ t.numOut1 = s.numOut1 ∧
      t.numWidth = s.numWidth ∧ t.errCode = s.errCode

/-! ## Every command -/

/-- R46: every command completes, with BUSY = 0 and DONE = 1, and with ERR and ERRCODE as they were or with ERR = 1 and a
code of R172, whose sixteen codes come first. -/
def Obligations.EveryCommandCompletes : Prop :=
  (∀ e : ErrCode, (e, e.code) ∈ [(ErrCode.engineBad, (0x11 : BitVec 8)), (.keyEmpty, 0x12), (.roundsLow, 0x13),
    (.nkeysLow, 0x14), (.lengthMismatch, 0x21), (.ctOdd, 0x31), (.ctBadChar, 0x32), (.ctBadUtf8, 0x33), (.magnitude, 0x41),
    (.widthFit, 0x42), (.illegalCmd, 0xE0), (.capacityIn, 0xE1), (.capacityOut, 0xE2), (.unencodable, 0xE3),
    (.badUnit, 0xE4), (.notConfigured, 0xE5)]) ∧
  ∀ (i : Instr) (s : State), ∃ t, exec i s = .next t ∧ t.status.busy = false ∧ t.status.done = true ∧
    ((t.status.err = s.status.err ∧ t.errCode = s.errCode) ∨
      (t.status.err = true ∧ ∃ e : ErrCode, t.errCode = e.code))

/-- R199, R209: the frame of every command: no operand register, key word or IBUF word, nor any parameter, OVR or IRQ_EN
changes. -/
def Obligations.CommandsNeverWriteTheirOperands : Prop :=
  ∀ (i : Instr) (s t : State), exec i s = .next t →
    t.params = s.params ∧ t.irqEn = s.irqEn ∧ t.status.ovr = s.status.ovr ∧ t.cmd = s.cmd ∧ t.engine = s.engine ∧
    t.rounds = s.rounds ∧ t.nkeys = s.nkeys ∧ t.keySel = s.keySel ∧ t.keyLen = s.keyLen ∧ t.ilen = s.ilen ∧
    t.arg0 = s.arg0 ∧ t.arg1 = s.arg1 ∧ t.numIn0 = s.numIn0 ∧ t.numIn1 = s.numIn1 ∧ t.numIn2 = s.numIn2 ∧
    t.numIn3 = s.numIn3 ∧ (∀ k j, t.keyWord k j = s.keyWord k j) ∧ (∀ j, t.ibufWord j = s.ibufWord j) ∧
    t.rst = s.rst ∧ t.engineDelay = s.engineDelay ∧ t.hostQueue = s.hostQueue ∧ t.hostLog = s.hostLog

/-- R198, R52: a command leaves the results of the other classes alone, and only CONFIGURE touches the latch. -/
def Obligations.CommandClassesKeepOtherResults : Prop :=
  ∀ (i : Instr) (s t : State), exec i s = .next t →
    (commandClass i ≠ some .output → t.olen = s.olen ∧ ∀ j, t.obufWord j = s.obufWord j) ∧
    (commandClass i ≠ some .number → t.numOut0 = s.numOut0 ∧ t.numOut1 = s.numOut1 ∧ t.numWidth = s.numWidth) ∧
    (commandClass i ≠ some .configure →
      t.status.cfgValid = s.status.cfgValid ∧ t.status.cfgVar = s.status.cfgVar)

/-- R174, R76: the error writes of each class. A command that ends with an error makes exactly them, NOP cannot fail, and
an illegal word ends with 0xE0 and writes nothing else. -/
def Obligations.ErrorWritesFollowTheClass : Prop :=
  (∀ (i : Instr) (s t : State), exec i s = .next t → s.status.err = false → t.status.err = true →
    (commandClass i = some .output ∧ ∃ e, t = s.afterOutputError e) ∨
    (commandClass i = some .number ∧ ∃ e, t = s.afterNumberError e) ∨
    (commandClass i = some .configure ∧ ∃ e, t = s.afterConfigError e)) ∧
  (∀ (s t : State), exec .nop s = .next t → t.status.err = s.status.err) ∧
  (∀ s : State, (fieldsOf s.cmd).legal = false →
    s.engineStep = .next { s with
      errCode := 0xE0, status := { s.status with busy := false, done := true, err := true } })

/-- R172, the column "raised by", read with each command's own "Exceptions, in order": from a good state a command raises no
other code. UNPAD's 0xE2 is from R42, R85 and R172, where R114's list leaves it out (log 25). -/
def Obligations.CommandsRaiseOnlyTheirListedErrors : Prop :=
  ∀ (i : Instr) (s t : State), s.Good → s.status.err = false → exec i s = .next t → t.status.err = true →
    ∃ e ∈ listedErrors i, t.errCode = e.code

/-- R175, R86: without its variant latched a cipher command ends with 0xE5, whatever IBUF and NUM_IN hold. -/
def Obligations.CiphersNeedTheirVariantLatched : Prop :=
  ∀ s : State,
    (¬ s.latched .bal → exec .balEnc s = .next (s.afterOutputError .notConfigured) ∧
      exec .balDec s = .next (s.afterOutputError .notConfigured)) ∧
    (¬ s.latched .mk → exec .mkEnc s = .next (s.afterOutputError .notConfigured) ∧
      exec .mkDec s = .next (s.afterOutputError .notConfigured)) ∧
    (¬ s.latched .fpe → ∀ f w, exec (.fpeEnc f) s = .next (s.afterOutputError .notConfigured) ∧
      exec (.fpeDec f) s = .next (s.afterOutputError .notConfigured) ∧
      exec (.fpeEncStr f) s = .next (s.afterOutputError .notConfigured) ∧
      exec (.fpeDecStr f) s = .next (s.afterOutputError .notConfigured) ∧
      exec (.numEnc w) s = .next (s.afterNumberError .notConfigured) ∧
      exec (.numDec w) s = .next (s.afterNumberError .notConfigured))

/-- R197: the cipher commands do not look at KEYSEL: with any other KEYSEL they do the same. -/
def Obligations.CiphersIgnoreKeySel : Prop :=
  ∀ (s t : State) (k : BitVec 8) (f : Form) (w : Width),
    ∀ i ∈ [Instr.balEnc, .balDec, .mkEnc, .mkDec, .fpeEnc f, .fpeDec f, .fpeEncStr f, .fpeDecStr f, .numEnc w, .numDec w],
      exec i s = .next t → exec i { s with keySel := k } = .next { t with keySel := k }

/-! ## Runs -/

/-- Every step from a good state that meets no HOST fault leads to a good state (`State.Good` cites the rules). -/
def Obligations.StepKeepsGoodStates : Prop := ∀ s t : State, s.Good → step s = .next t → t.Good

/-- The state after reset is good, and its registers hold the values of R54's table. Its parameters, and that no event is
left and `rst` is released, are the model's choice (log 3, log 4, log 11, log 15). -/
def Obligations.ResetStateIsGood : Prop :=
  State.reset.Good ∧
  (let s := State.reset
   s.irqEn = false ∧ s.status = ⟨false, false, false, false, false, .bal⟩ ∧ s.errCode = 0 ∧ s.cmd = 0 ∧ s.engine = 0xFF ∧
   s.rounds = 0 ∧ s.nkeys = 0 ∧ s.keySel = 0 ∧ (∀ k, s.keyLenOf k = 0) ∧ s.ilen = 0 ∧ s.olen = 0 ∧ s.arg0 = 0 ∧
   s.arg1 = 0 ∧ s.numIn = 0 ∧ s.numOut = 0 ∧ s.numWidth = 0 ∧ s.irq = false ∧
   (∀ j, s.ibufWord j = Memory.readWord [] (Config.freeByte .ibuf 0) (4 * j)) ∧
   (∀ j, s.obufWord j = Memory.readWord [] (Config.freeByte .obuf 0) (4 * j)) ∧
   (∀ k j, s.keyWord k j = Memory.readWord [] (Config.freeByte .key 0) (keyAddr k j)) ∧
   s.rst = false ∧ s.hostQueue = [] ∧ s.hostLog = [])

/-- R205: a pending command ends, by completion or by reset, within the drawn delay and one step. The bound by a drawn
delay is the model's form of fairness (log 2). Only the events before the first `wait` can come before the end. A `readout`
made while busy reads an unspecified length, and a HOST that follows it may leave the window (log 16): then the run stops
there. That `rst` is released while a command is pending is a field of `State.Good` (R190). -/
def Obligations.PendingCommandEnds : Prop :=
  ∀ s : State, s.status.busy = true → s.rst = false → s.queueAdmitted →
    ∃ k ≤ s.engineDelay + 1, (∃ t : State, Host.Core.run Sys2Proof.core k s = .next t ∧ t.status.busy = false) ∨
      (HostOp.readOut ∈ s.hostQueue ∧ Host.Core.run Sys2Proof.core k s = .fault .outsideWindow)

/-- R205: a HOST `wait` loop terminates, with BUSY = 0. R205 gives no count: the bound by the drawn delay is the model's form
of fairness (log 2), and that the loop is one event is the model's choice (log 16). -/
def Obligations.WaitLoopTerminates : Prop :=
  ∀ (s : State) (q : List HostOp), s.rst = false → s.hostQueue = .wait :: q →
    ∃ k ≤ s.engineDelay + 2, ∃ t : State,
      Host.Core.run Sys2Proof.core k s = .next t ∧ t.hostQueue = q ∧ t.status.busy = false

/-- R80, R64, R68: the accesses of `loadin`, `loadin bytes`, `loadkey` and `loadnum`, performed one a step on an idle FRE,
leave the input vector, the key string or the integer the script names. IN and KCP(k) are the words in order (R56). -/
def Obligations.LoadScriptsPlaceTheOperands : Prop :=
  (∀ s : State, s.inUnits = (List.range s.ilen.toNat).map (fun j => (s.ibufWord j).toNat) ∧
    ∀ k, s.keyCps k = (List.range (s.keyLenOf k).toNat).map fun j => (s.keyWord k j).toNat) ∧
  ∀ (s : State) (v : Units) (q : List HostOp), s.params.legal → s.status.busy = false → s.rst = false →
    (∀ x ∈ v, x < 2 ^ 32) →
    (v.length ≤ s.params.ibufDepth → s.hostQueue = scriptLoadIn s.params.base v ++ q →
      ∃ t : State, Host.Core.run Sys2Proof.core (v.length + 1) s = .next t ∧ t.hostQueue = q ∧ t.inUnits = v ∧
        t.status = s.status ∧ t.key = s.key ∧ t.keyLen = s.keyLen) ∧
    (∀ k : Nat, k < s.params.nkeysMax → s.keyLen.length = s.params.nkeysMax → v.length ≤ s.params.keyDepth →
      s.hostQueue = scriptLoadKey s.params.base k v ++ q →
      ∃ t : State, Host.Core.run Sys2Proof.core (v.length + 2) s = .next t ∧ t.hostQueue = q ∧ t.keyCps k = v ∧
        t.keySel = BitVec.ofNat 8 k ∧ t.status.cfgValid = false ∧ t.ibuf = s.ibuf ∧ t.ilen = s.ilen ∧
        ∀ x ≠ k, t.keyCps x = s.keyCps x) ∧
    ((∀ x ∈ v, isScalar x = true) → (v.flatMap utf8Char).length ≤ s.params.ibufDepth →
      s.hostQueue = scriptLoadInBytes s.params.base v ++ q →
      ∃ t : State, Host.Core.run Sys2Proof.core ((v.flatMap utf8Char).length + 1) s = .next t ∧ t.hostQueue = q ∧
        utf8 v = .ok t.inUnits ∧ t.status = s.status ∧ t.key = s.key ∧ t.keyLen = s.keyLen) ∧
    (∀ x : Nat, s.hostQueue = scriptLoadNum s.params.base x ++ q →
      ∃ t : State, Host.Core.run Sys2Proof.core 4 s = .next t ∧ t.hostQueue = q ∧ t.numIn = x % 2 ^ 128 ∧
        t.status = s.status ∧ t.key = s.key ∧ t.keyLen = s.keyLen ∧ t.ibuf = s.ibuf ∧ t.ilen = s.ilen)

/-! ## NOP and CONFIGURE -/

/-- R88: NOP changes no register other than STATUS (BUSY, DONE). -/
def Obligations.NopOnlyCompletes : Prop :=
  ∀ s : State, exec .nop s = .next { s with status := { s.status with busy := false, done := true } }

/-- R90, R93, R94: CONFIGURE v=bal latches BAL where every check passes, else reports the first that fails. -/
def Obligations.ConfigureBalChecksAndLatches : Prop :=
  ∀ s : State,
    (¬ s.slotOk 0 → exec .configureBal s = .next (s.afterConfigError .capacityIn)) ∧
    (s.slotOk 0 → (s.keyLenOf 0).toNat = 0 → exec .configureBal s = .next (s.afterConfigError .keyEmpty)) ∧
    (s.slotOk 0 → (∃ j < (s.keyLenOf 0).toNat, isScalar (s.keyWord 0 j).toNat = false) →
      exec .configureBal s = .next (s.afterConfigError .badUnit)) ∧
    (s.keyOk 0 → s.rounds.toNat < 2 → exec .configureBal s = .next (s.afterConfigError .roundsLow)) ∧
    (s.keyOk 0 → 2 ≤ s.rounds.toNat → exec .configureBal s = .next (s.afterLatch .bal))

/-- R91, R93, R94: CONFIGURE v=mk, the slots checked in increasing k. -/
def Obligations.ConfigureMkChecksAndLatches : Prop :=
  ∀ s : State,
    (s.nkeys.toNat < 2 → exec .configureMk s = .next (s.afterConfigError .nkeysLow)) ∧
    (2 ≤ s.nkeys.toNat → s.params.nkeysMax < s.nkeys.toNat →
      exec .configureMk s = .next (s.afterConfigError .capacityIn)) ∧
    (2 ≤ s.nkeys.toNat → s.nkeys.toNat ≤ s.params.nkeysMax → ∀ k < s.nkeys.toNat, (∀ k' < k, s.keyOk k') →
      (s.params.keyDepth < (s.keyLenOf k).toNat → exec .configureMk s = .next (s.afterConfigError .capacityIn)) ∧
      ((s.keyLenOf k).toNat = 0 → exec .configureMk s = .next (s.afterConfigError .keyEmpty)) ∧
      (s.slotOk k → (∃ j < (s.keyLenOf k).toNat, isScalar (s.keyWord k j).toNat = false) →
        exec .configureMk s = .next (s.afterConfigError .badUnit))) ∧
    (2 ≤ s.nkeys.toNat → s.nkeys.toNat ≤ s.params.nkeysMax → (∀ k < s.nkeys.toNat, s.keyOk k) →
      exec .configureMk s = .next (s.afterLatch .mk))

/-- R92, R93, R94: CONFIGURE v=fpe, the engine checked first. -/
def Obligations.ConfigureFpeChecksAndLatches : Prop :=
  ∀ s : State,
    (3 < s.engine.toNat → exec .configureFpe s = .next (s.afterConfigError .engineBad)) ∧
    (s.engine.toNat ≤ 3 →
      (¬ s.slotOk 0 → exec .configureFpe s = .next (s.afterConfigError .capacityIn)) ∧
      (s.slotOk 0 → (s.keyLenOf 0).toNat = 0 → exec .configureFpe s = .next (s.afterConfigError .keyEmpty)) ∧
      (s.slotOk 0 → (∃ j < (s.keyLenOf 0).toNat, isScalar (s.keyWord 0 j).toNat = false) →
        exec .configureFpe s = .next (s.afterConfigError .badUnit)) ∧
      (s.keyOk 0 → s.rounds.toNat < 2 → exec .configureFpe s = .next (s.afterConfigError .roundsLow)) ∧
      (s.keyOk 0 → 2 ≤ s.rounds.toNat → exec .configureFpe s = .next (s.afterLatch .fpe)))

/-! ## EXTRACT, ADD, XOR, PAD, UNPAD -/

/-- R110, R97: EXTRACT writes ARG1 units of the key material from index ARG0 on, wrapping; the material is the code
points or their UTF-8 bytes. -/
def Obligations.ExtractWritesTheWrappedSlice : Prop :=
  ∀ (s : State) (m : Mode) (mat : Units), s.slotOk s.keySel.toNat →
    (m = .cp ∧ mat = s.keyCps s.keySel.toNat ∨ m = .byte ∧ utf8 (s.keyCps s.keySel.toNat) = .ok mat) →
    0 < mat.length → s.arg1.toNat ≤ s.params.obufDepth →
    exec (.extract m) s = .next (s.afterOutput
      ((List.range s.arg1.toNat).map fun j => mat.getD ((s.arg0.toNat + j) % mat.length) 0))

/-- R110: EXTRACT's errors, in order: 0xE1, 0xE3, 0x12, 0xE2. -/
def Obligations.ExtractReportsTheFirstFailingCheck : Prop :=
  ∀ (s : State) (m : Mode),
    (¬ s.slotOk s.keySel.toNat → exec (.extract m) s = .next (s.afterOutputError .capacityIn)) ∧
    (s.slotOk s.keySel.toNat →
      (m = .byte → (∃ j < (s.keyLenOf s.keySel.toNat).toNat, isScalar (s.keyWord s.keySel.toNat j).toNat = false) →
        exec (.extract m) s = .next (s.afterOutputError .unencodable)) ∧
      ((s.keyLenOf s.keySel.toNat).toNat = 0 → exec (.extract m) s = .next (s.afterOutputError .keyEmpty)) ∧
      (0 < (s.keyLenOf s.keySel.toNat).toNat → s.params.obufDepth < s.arg1.toNat →
        (m = .byte → ∀ j < (s.keyLenOf s.keySel.toNat).toNat, isScalar (s.keyWord s.keySel.toNat j).toNat = true) →
        exec (.extract m) s = .next (s.afterOutputError .capacityOut)))

/-- R111, R98, R99: ADD writes the sums of the two halves of IN: unbounded in code-point mode, modulo 256 and
re-expanded in byte mode. The ranges of the units come first (R111, R83): code points, surrogates among them, and bytes. -/
def Obligations.AddWritesThePositionSums : Prop :=
  (∀ u : Nat, (isCodePoint u = true ↔ u ≤ 0x10FFFF) ∧ (isByte u = true ↔ u ≤ 0xFF)) ∧
  ∀ s : State, s.ilen.toNat = 2 * s.arg0.toNat →
    (s.inputOk isCodePoint → s.arg0.toNat ≤ s.params.obufDepth →
      exec (.add .cp) s = .next (s.afterOutput ((List.range s.arg0.toNat).map fun j =>
        (s.ibufWord j).toNat + (s.ibufWord (s.arg0.toNat + j)).toNat))) ∧
    (s.inputOk isByte → ∀ out : Units,
      out = ((List.range s.arg0.toNat).flatMap fun j =>
        let v := ((s.ibufWord j).toNat + (s.ibufWord (s.arg0.toNat + j)).toNat) % 256
        if v < 128 then [v] else if v < 192 then [194, v] else [195, v - 64]) →
      out.length ≤ s.params.obufDepth → exec (.add .byte) s = .next (s.afterOutput out))

/-- R112, R100: XOR writes the position-wise exclusive or of the two halves of IN. -/
def Obligations.XorWritesThePositionXors : Prop :=
  ∀ (s : State) (m : Mode), s.ilen.toNat = 2 * s.arg0.toNat →
    s.inputOk (match m with | .cp => isCodePoint | .byte => isByte) → s.arg0.toNat ≤ s.params.obufDepth →
    exec (.xor m) s = .next (s.afterOutput ((List.range s.arg0.toNat).map fun j =>
      (s.ibufWord j).toNat ^^^ (s.ibufWord (s.arg0.toNat + j)).toNat))

/-- R113, R106, R114, R107: PAD prepends one marker to an input of odd length; UNPAD strips every leading marker,
and what is left has to fit (R85). -/
def Obligations.PadAndUnpadHandleTheMarker : Prop :=
  (∀ s : State, s.inputOk isScalar → s.ilen.toNat + s.ilen.toNat % 2 ≤ s.params.obufDepth →
    exec .pad s = .next (s.afterOutput (if s.ilen.toNat % 2 = 1 then 2 :: s.inUnits else s.inUnits))) ∧
  (∀ (s : State) (n : Nat) (rest : Units), s.inputOk isScalar → rest.length ≤ s.params.obufDepth →
    s.inUnits = List.replicate n 2 ++ rest → rest.head? ≠ some 2 → exec .unpad s = .next (s.afterOutput rest))

/-- R111 to R114, R123, R124, R131, R132, R87, R42, R85: the errors of the commands that need no configuration, in order:
0x11, then 0xE1 (for ROUND the slot first), then 0xE4 or 0x32, then 0x21 of ADD and XOR, 0xE3 and 0x12 of ROUND, and last
0xE2 for an output that does not fit. R113 lists PAD's 0xE2 for an odd ILEN alone and R114 lists none for UNPAD: there the
model follows R42, R85 and R172 (log 25). -/
def Obligations.PrimitiveCommandsReportTheFirstFailingCheck : Prop :=
  ∀ (s : State) (m : Mode) (f : Form),
    (3 < s.engine.toNat → ∀ i ∈ [Instr.digest f, .round m], exec i s = .next (s.afterOutputError .engineBad)) ∧
    (s.engine.toNat ≤ 3 → ¬ s.slotOk s.keySel.toNat →
      exec (.round m) s = .next (s.afterOutputError .capacityIn)) ∧
    (s.params.ibufDepth < s.ilen.toNat →
      (∀ i ∈ [Instr.add m, .xor m, .pad, .unpad, .b256Enc, .b256Dec],
        exec i s = .next (s.afterOutputError .capacityIn)) ∧
      (s.engine.toNat ≤ 3 → exec (.digest f) s = .next (s.afterOutputError .capacityIn) ∧
        exec (.round m) s = .next (s.afterOutputError .capacityIn))) ∧
    (s.ilen.toNat ≤ s.params.ibufDepth →
      ((∃ j < s.ilen.toNat, (match m with | .cp => 0x10FFFF | .byte => 0xFF) < (s.ibufWord j).toNat) →
        exec (.add m) s = .next (s.afterOutputError .badUnit) ∧
        exec (.xor m) s = .next (s.afterOutputError .badUnit)) ∧
      ((∃ j < s.ilen.toNat, isScalar (s.ibufWord j).toNat = false) →
        exec .pad s = .next (s.afterOutputError .badUnit) ∧ exec .unpad s = .next (s.afterOutputError .badUnit) ∧
        (s.engine.toNat ≤ 3 → s.slotOk s.keySel.toNat →
          exec (.round .cp) s = .next (s.afterOutputError .badUnit))) ∧
      ((∃ j < s.ilen.toNat, 0xFF < (s.ibufWord j).toNat) →
        exec .b256Enc s = .next (s.afterOutputError .badUnit) ∧
        (s.engine.toNat ≤ 3 → exec (.digest f) s = .next (s.afterOutputError .badUnit) ∧
          (s.slotOk s.keySel.toNat → exec (.round .byte) s = .next (s.afterOutputError .badUnit)))) ∧
      ((∃ j < s.ilen.toNat, (s.ibufWord j).toNat ∉ s.params.b256) →
        exec .b256Dec s = .next (s.afterOutputError .ctBadChar))) ∧
    (s.inputOk (match m with | .cp => isCodePoint | .byte => isByte) → s.ilen.toNat ≠ 2 * s.arg0.toNat →
      exec (.add m) s = .next (s.afterOutputError .lengthMismatch) ∧
      exec (.xor m) s = .next (s.afterOutputError .lengthMismatch)) ∧
    (s.inputOk (match m with | .cp => isCodePoint | .byte => isByte) → s.ilen.toNat = 2 * s.arg0.toNat →
      (s.params.obufDepth < s.arg0.toNat → exec (.xor m) s = .next (s.afterOutputError .capacityOut) ∧
        (m = .cp → exec (.add .cp) s = .next (s.afterOutputError .capacityOut))) ∧
      (m = .byte → s.params.obufDepth < ((List.range s.arg0.toNat).flatMap fun j =>
          let v := ((s.ibufWord j).toNat + (s.ibufWord (s.arg0.toNat + j)).toNat) % 256
          if v < 128 then [v] else if v < 192 then [194, v] else [195, v - 64]).length →
        exec (.add .byte) s = .next (s.afterOutputError .capacityOut))) ∧
    (s.inputOk isScalar →
      (s.params.obufDepth < s.ilen.toNat + s.ilen.toNat % 2 → exec .pad s = .next (s.afterOutputError .capacityOut)) ∧
      (∀ (n : Nat) (rest : Units), s.inUnits = List.replicate n 2 ++ rest → rest.head? ≠ some 2 →
        s.params.obufDepth < rest.length → exec .unpad s = .next (s.afterOutputError .capacityOut))) ∧
    (s.inputOk isByte →
      (s.params.obufDepth < s.ilen.toNat → exec .b256Enc s = .next (s.afterOutputError .capacityOut)) ∧
      (s.engine.toNat ≤ 3 →
        s.params.obufDepth < (match f with | .raw => 32 | .rendered => 64) →
        exec (.digest f) s = .next (s.afterOutputError .capacityOut))) ∧
    (s.ilen.toNat ≤ s.params.ibufDepth → s.params.obufDepth < s.ilen.toNat →
      (∀ j < s.ilen.toNat, (s.ibufWord j).toNat ∈ s.params.b256) →
      exec .b256Dec s = .next (s.afterOutputError .capacityOut)) ∧
    (s.engine.toNat ≤ 3 → s.slotOk s.keySel.toNat → s.inputOk isScalar →
      ((s.keyLenOf s.keySel.toNat).toNat = 0 → exec (.round .cp) s = .next (s.afterOutputError .keyEmpty)) ∧
      (0 < (s.keyLenOf s.keySel.toNat).toNat →
        ((∃ j < s.ilen.toNat, isScalar ((s.ibufWord j).toNat + (s.keyWord s.keySel.toNat
            ((s.arg0.toNat + j) % (s.keyLenOf s.keySel.toNat).toNat)).toNat) = false) →
          exec (.round .cp) s = .next (s.afterOutputError .unencodable)) ∧
        ((∀ j < s.ilen.toNat, isScalar ((s.ibufWord j).toNat + (s.keyWord s.keySel.toNat
            ((s.arg0.toNat + j) % (s.keyLenOf s.keySel.toNat).toNat)).toNat) = true) →
          s.params.obufDepth < s.ilen.toNat → exec (.round .cp) s = .next (s.afterOutputError .capacityOut)))) ∧
    (s.engine.toNat ≤ 3 → s.slotOk s.keySel.toNat → s.inputOk isByte →
      ((∃ j < (s.keyLenOf s.keySel.toNat).toNat, isScalar (s.keyWord s.keySel.toNat j).toNat = false) →
        exec (.round .byte) s = .next (s.afterOutputError .unencodable)) ∧
      ((s.keyLenOf s.keySel.toNat).toNat = 0 → exec (.round .byte) s = .next (s.afterOutputError .keyEmpty)) ∧
      (s.keyOk s.keySel.toNat → s.params.obufDepth < s.ilen.toNat →
        exec (.round .byte) s = .next (s.afterOutputError .capacityOut)))

/-! ## DIGEST and ROUND -/

/-- R123, R118: DIGEST writes the 32 bytes of the digest of IN, or their 64 lowercase hex digit codes, high nibble
first. The engines' numbers come first (R10, R27, R116): 2 is the SHA-256 that BAL and MK use (R133), and no number above 3
is an engine's. -/
def Obligations.DigestWritesTheDigestOfTheInput : Prop :=
  (engineOfNumber 0 = some .blake2b256 ∧ engineOfNumber 1 = some .keccak256 ∧ engineOfNumber 2 = some .sha256 ∧
    engineOfNumber 3 = some .sha3 ∧ ∀ n > 3, engineOfNumber n = none) ∧
  ∀ (s : State) (e : Engine), engineOfNumber s.engine.toNat = some e → s.inputOk isByte →
    (32 ≤ s.params.obufDepth → exec (.digest .raw) s = .next (s.afterOutput
      ((Config.digest e (s.inUnits.map (BitVec.ofNat 8))).toList.map (·.toNat)))) ∧
    (64 ≤ s.params.obufDepth → exec (.digest .rendered) s = .next (s.afterOutput
      ((List.range 64).map fun j =>
        let b := ((Config.digest e (s.inUnits.map (BitVec.ofNat 8))).toList.getD (j / 2) 0).toNat
        let x := if j % 2 = 0 then b / 16 else b % 16
        if x ≤ 9 then 0x30 + x else 0x61 + (x - 10))))

/-- R124, R119, R120: ROUND mixes IN with the key material at ARG0, hashes the sums as bytes, and writes the digest's hex
digits from ARG0 on, with period 64. -/
def Obligations.RoundWritesTheKeyedMask : Prop :=
  ∀ (s : State) (e : Engine), engineOfNumber s.engine.toNat = some e → s.slotOk s.keySel.toNat →
    s.ilen.toNat ≤ s.params.obufDepth → 0 < (s.keyLenOf s.keySel.toNat).toNat →
    (∀ bytes : Units, s.inputOk isScalar →
      utf8 ((List.range s.ilen.toNat).map fun j => (s.ibufWord j).toNat +
        (s.keyWord s.keySel.toNat ((s.arg0.toNat + j) % (s.keyLenOf s.keySel.toNat).toNat)).toNat) = .ok bytes →
      exec (.round .cp) s = .next (s.afterOutput ((List.range s.ilen.toNat).map fun j =>
        (hex (Config.digest e (bytes.map (BitVec.ofNat 8)))).getD ((s.arg0.toNat + j) % 64) 0))) ∧
    (∀ kb : Units, s.inputOk isByte → utf8 (s.keyCps s.keySel.toNat) = .ok kb →
      exec (.round .byte) s = .next (s.afterOutput ((List.range s.ilen.toNat).map fun j =>
        (hex (Config.digest e (((List.range s.ilen.toNat).flatMap fun j =>
          let v := ((s.ibufWord j).toNat + kb.getD ((s.arg0.toNat + j) % kb.length) 0) % 256
          if v < 128 then [v] else if v < 192 then [194, v] else [195, v - 64]).map
            (BitVec.ofNat 8)))).getD ((s.arg0.toNat + j) % 64) 0)))

/-- R121 (a), (b), (d), (e): what a round function gives, for every digest; with the steps of R118, R119 and R120 that it
is made of: the sums with the key from the round index on, their UTF-8 or byte expansion, the digest's hex digits. -/
def Obligations.RoundFunctionsGiveLengthMatchedHexDigits : Prop :=
  (∀ d : Vector Byte 32, hex d = (List.range 64).map fun j =>
    let b := (d.toList.getD (j / 2) 0).toNat
    let x := if j % 2 = 0 then b / 16 else b % 16
    if x ≤ 9 then 0x30 + x else 0x61 + (x - 10)) ∧
  (∀ (dg : DigestFn) (item key : Units) (i : Nat) (e : Engine), key ≠ [] →
    (∀ bytes : Units, utf8 ((List.range item.length).map fun j =>
        item.getD j 0 + key.getD ((i + j) % key.length) 0) = .ok bytes →
      roundCp dg item i key e = .ok ((List.range item.length).map fun j =>
        (hex (dg e (bytes.map (BitVec.ofNat 8)))).getD ((i + j) % 64) 0)) ∧
    roundB dg item i key e = .ok ((List.range item.length).map fun j =>
      (hex (dg e (((List.range item.length).flatMap fun j =>
        let v := (item.getD j 0 + key.getD ((i + j) % key.length) 0) % 256
        if v < 128 then [v] else if v < 192 then [194, v] else [195, v - 64]).map
          (BitVec.ofNat 8)))).getD ((i + j) % 64) 0)) ∧
  ∀ (dg : DigestFn) (item key out : Units) (i : Nat) (e : Engine),
    (roundCp dg item i key e = .ok out ∨ roundB dg item i key e = .ok out) →
    out.length = item.length ∧
      (∀ c ∈ out, (0x30 ≤ c ∧ c ≤ 0x39) ∨ (0x61 ≤ c ∧ c ≤ 0x66)) ∧
      (∀ j < item.length, out.getD j 0 = out.getD (j % 64) 0) ∧ key ≠ []

/-! ## The codec -/

/-- R131, R132, R127, R128: B256_ENC writes T of each byte, B256_DEC the byte of each table character. -/
def Obligations.CodecCommandsMapThroughTheTable : Prop :=
  (∀ s : State, s.inputOk isByte → s.ilen.toNat ≤ s.params.obufDepth →
    exec .b256Enc s = .next (s.afterOutput (s.inUnits.map fun x => s.params.b256.getD x 0))) ∧
  (∀ (s : State) (b : Units), s.params.legal → s.ilen.toNat ≤ s.params.ibufDepth →
    s.ilen.toNat ≤ s.params.obufDepth → (∀ x ∈ b, x < 256) → s.inUnits = b.map (fun x => s.params.b256.getD x 0) →
    exec .b256Dec s = .next (s.afterOutput b))

/-- R129 (a) to (d), for every conforming table. -/
def Obligations.CodecIsABijection : Prop :=
  ∀ t : Units, tableOk t →
    (∀ b : Units, (∀ x ∈ b, x < 256) → b256DecUnits t (b256EncUnits t b) = .ok b) ∧
    (∀ u b : Units, b256DecUnits t u = .ok b → b256EncUnits t b = u ∧ b.length = u.length) ∧
    (∀ b : Units, (b256EncUnits t b).length = b.length)

/-! ## The balanced and multi-key ciphers -/

/-- R139, R142, R133, R134, R135: BAL_ENC and MK_ENC write the UTF-8 of the core's output: slot 0 and ROUNDS, or slot i in
round i and NKEYS, with SHA-256. With the variant latched their errors are 0xE1, then 0xE4, then 0xE3 in the first round
that meets a sum that is no scalar value, then 0xE2. The core's steps come first: R101, R106, R135. -/
def Obligations.BalancedEncryptionWritesTheCoreOutput : Prop :=
  (∀ (f : Nat → Units → Except ErrCode Units) (n : Nat) (d l r : Units),
    splitUnits d = (d.take (d.length / 2), d.drop (d.length / 2)) ∧
    padUnits d = (if d.length % 2 = 1 then 2 :: d else d) ∧
    balCoreEnc f n [] = .ok [] ∧
    (d ≠ [] → balEncRounds f n (splitUnits (padUnits d)) = .ok (l, r) → balCoreEnc f n d = .ok (l ++ r)) ∧
    balEncRounds f 0 (l, r) = .ok (l, r) ∧
    (∀ (p : Units × Units) (m : Units), balEncRounds f n p = .ok (l, r) → f n r = .ok m → l.length = m.length →
      balEncRounds f (n + 1) p = .ok (r, (List.range l.length).map fun j => l.getD j 0 ^^^ m.getD j 0))) ∧
  (∀ (s : State) (c b : Units), s.inputOk isScalar → utf8 c = .ok b → b.length ≤ s.params.obufDepth →
    (s.latched .bal →
      balCoreEnc (fun i x => roundCp Config.digest x i (s.keyCps 0) .sha256) s.rounds.toNat s.inUnits = .ok c →
      exec .balEnc s = .next (s.afterOutput b)) ∧
    (s.latched .mk →
      balCoreEnc (fun i x => roundCp Config.digest x i (s.keyCps i) .sha256) s.nkeys.toNat s.inUnits = .ok c →
      exec .mkEnc s = .next (s.afterOutput b))) ∧
  ∀ (s : State) (v : Variant) (enc : Instr) (keyf : Nat → Units) (n : Nat), s.latched v →
    (v = .bal ∧ enc = .balEnc ∧ keyf = (fun _ => s.keyCps 0) ∧ n = s.rounds.toNat ∨
      v = .mk ∧ enc = .mkEnc ∧ keyf = s.keyCps ∧ n = s.nkeys.toNat) →
    (s.params.ibufDepth < s.ilen.toNat → exec enc s = .next (s.afterOutputError .capacityIn)) ∧
    (s.ilen.toNat ≤ s.params.ibufDepth → (∃ j < s.ilen.toNat, isScalar (s.ibufWord j).toNat = false) →
      exec enc s = .next (s.afterOutputError .badUnit)) ∧
    (s.inputOk isScalar → s.ilen.toNat ≠ 0 → ∀ i < n, ∀ l r : Units,
      balEncRounds (fun i x => roundCp Config.digest x i (keyf i) .sha256) i (splitUnits (padUnits s.inUnits)) =
        .ok (l, r) → keyf i ≠ [] →
      (∃ j < r.length, isScalar (r.getD j 0 + (keyf i).getD ((i + j) % (keyf i).length) 0) = false) →
      exec enc s = .next (s.afterOutputError .unencodable)) ∧
    (s.inputOk isScalar → ∀ c b : Units,
      balCoreEnc (fun i x => roundCp Config.digest x i (keyf i) .sha256) n s.inUnits = .ok c → utf8 c = .ok b →
      s.params.obufDepth < b.length → exec enc s = .next (s.afterOutputError .capacityOut))

/-- R138, R202 for text below 0x80: under a configured ASCII key the encryption of ASCII text always completes with
|PAD(IN)| bytes below 0x80, and the decryption of an even number of ASCII bytes always completes, with no more code
points than IN has bytes, all below 0x80. -/
def Obligations.AsciiTextAlwaysCompletes : Prop :=
  ∀ s : State, s.Good → s.inputOk (fun u => decide (u < 0x80)) →
    ((s.latched .bal ∧ ∀ x ∈ s.keyCps 0, x < 0x80) →
      (s.ilen.toNat + s.ilen.toNat % 2 ≤ s.params.obufDepth → ∃ c : Units, exec .balEnc s = .next (s.afterOutput c) ∧
        c.length = s.ilen.toNat + s.ilen.toNat % 2 ∧ ∀ x ∈ c, x < 0x80) ∧
      (s.ilen.toNat % 2 = 0 → s.ilen.toNat ≤ s.params.obufDepth → ∃ p : Units,
        exec .balDec s = .next (s.afterOutput p) ∧ p.length ≤ s.ilen.toNat ∧ ∀ x ∈ p, x < 0x80)) ∧
    ((s.latched .mk ∧ ∀ k < s.nkeys.toNat, ∀ x ∈ s.keyCps k, x < 0x80) →
      (s.ilen.toNat + s.ilen.toNat % 2 ≤ s.params.obufDepth → ∃ c : Units, exec .mkEnc s = .next (s.afterOutput c) ∧
        c.length = s.ilen.toNat + s.ilen.toNat % 2 ∧ ∀ x ∈ c, x < 0x80) ∧
      (s.ilen.toNat % 2 = 0 → s.ilen.toNat ≤ s.params.obufDepth → ∃ p : Units,
        exec .mkDec s = .next (s.afterOutput p) ∧ p.length ≤ s.ilen.toNat ∧ ∀ x ∈ p, x < 0x80))

/-- R141, R143: BAL_DEC and MK_DEC write the core's output on the decoded bytes, and the empty vector for none. The core's
steps come first: R107, R136. -/
def Obligations.BalancedDecryptionWritesTheCoreOutput : Prop :=
  (∀ (f : Nat → Units → Except ErrCode Units) (n : Nat) (u b a : Units),
    (balDecRounds f n (u.take (u.length / 2), u.drop (u.length / 2)) = .ok (b, a) →
      balCoreDec f n u = .ok ((b ++ a).dropWhile (· == 2))) ∧
    balDecRounds f 0 (b, a) = .ok (b, a) ∧
    (∀ m : Units, f n b = .ok m → a.length = m.length → balDecRounds f (n + 1) (b, a) =
      balDecRounds f n ((List.range a.length).map (fun j => a.getD j 0 ^^^ m.getD j 0), b))) ∧
  (∀ (s : State) (u p : Units), s.inputOk isByte → s.ilen.toNat ≠ 0 → s.ilen.toNat % 2 = 0 →
    utf8 u = .ok s.inUnits → p.length ≤ s.params.obufDepth →
    (s.latched .bal →
      balCoreDec (fun i x => roundCp Config.digest x i (s.keyCps 0) .sha256) s.rounds.toNat u = .ok p →
      exec .balDec s = .next (s.afterOutput p)) ∧
    (s.latched .mk →
      balCoreDec (fun i x => roundCp Config.digest x i (s.keyCps i) .sha256) s.nkeys.toNat u = .ok p →
      exec .mkDec s = .next (s.afterOutput p))) ∧
  (∀ s : State, s.ilen = 0 → (s.latched .bal → exec .balDec s = .next (s.afterOutput [])) ∧
    (s.latched .mk → exec .mkDec s = .next (s.afterOutput [])))

/-- R141, R143, R136, R177: with the variant latched BAL_DEC and MK_DEC end with 0xE1, then 0xE4, then 0x31 for an odd byte
count before the bytes are looked at as UTF-8, then 0x33 where they are no UTF-8, then, in the order of the rounds, 0xE3
where a round sum is no scalar value and 0x21 where the code points are odd in number, and last 0xE2. -/
def Obligations.BalancedDecryptionRejectsBadCiphertext : Prop :=
  ∀ (s : State) (v : Variant) (dec : Instr) (keyf : Nat → Units) (n : Nat), s.latched v →
    (v = .bal ∧ dec = .balDec ∧ keyf = (fun _ => s.keyCps 0) ∧ n = s.rounds.toNat ∨
      v = .mk ∧ dec = .mkDec ∧ keyf = s.keyCps ∧ n = s.nkeys.toNat) →
    (s.params.ibufDepth < s.ilen.toNat → exec dec s = .next (s.afterOutputError .capacityIn)) ∧
    (s.ilen.toNat ≤ s.params.ibufDepth → (∃ j < s.ilen.toNat, 0xFF < (s.ibufWord j).toNat) →
      exec dec s = .next (s.afterOutputError .badUnit)) ∧
    (s.inputOk isByte →
      (s.ilen.toNat % 2 = 1 → exec dec s = .next (s.afterOutputError .ctOdd)) ∧
      (s.ilen.toNat % 2 = 0 → (∀ u, utf8 u ≠ .ok s.inUnits) → exec dec s = .next (s.afterOutputError .ctBadUtf8)) ∧
      (s.ilen.toNat % 2 = 0 → s.ilen.toNat ≠ 0 → ∀ u : Units, utf8 u = .ok s.inUnits →
        (∀ i < n, ∀ b a : Units,
          balDecRounds (fun k x => roundCp Config.digest x (k + i + 1) (keyf (k + i + 1)) .sha256) (n - i - 1)
            (splitUnits u) = .ok (b, a) → keyf i ≠ [] →
          (∃ j < b.length, isScalar (b.getD j 0 + (keyf i).getD ((i + j) % (keyf i).length) 0) = false) →
          exec dec s = .next (s.afterOutputError .unencodable)) ∧
        (u.length % 2 = 1 → 0 < n → keyf (n - 1) ≠ [] →
          (∀ j < u.length / 2, isScalar (u.getD j 0 +
            (keyf (n - 1)).getD ((n - 1 + j) % (keyf (n - 1)).length) 0) = true) →
          exec dec s = .next (s.afterOutputError .lengthMismatch)) ∧
        (∀ p : Units, balCoreDec (fun i x => roundCp Config.digest x i (keyf i) .sha256) n u = .ok p →
          s.params.obufDepth < p.length → exec dec s = .next (s.afterOutputError .capacityOut))))

/-- R137 where R200 lets it stand, and R200: decryption gives back what was encrypted without its leading markers, so all
of it where it does not begin with the marker; for every key schedule, round count and digest. R137 claims the inverse for
odd lengths that begin with the marker too, which R107, R136 and R200 exclude: by the order of authority of
90_conflicts.md the algorithm's steps win (log 24). The premise on
the keys is what CONFIGURE grants (R144); it matters for the empty text only. -/
def Obligations.BalancedDecryptInvertsEncrypt : Prop :=
  ∀ (dg : DigestFn) (keyf : Nat → Units) (n : Nat) (d c : Units), (d = [] → ∀ i < n, keyf i ≠ []) →
    balCoreEnc (fun i x => roundCp dg x i (keyf i) .sha256) n d = .ok c →
    balCoreDec (fun i x => roundCp dg x i (keyf i) .sha256) n c = .ok (d.dropWhile (· == 2)) ∧
      (d.head? ≠ some 2 → balCoreDec (fun i x => roundCp dg x i (keyf i) .sha256) n c = .ok d)

/-- R138, R140: every element the balanced core gives is a scalar value, and their UTF-8 bytes are as many as those of
the padded plaintext. -/
def Obligations.BalancedOutputStaysEncodable : Prop :=
  ∀ (dg : DigestFn) (keyf : Nat → Units) (n : Nat) (d c : Units), (∀ x ∈ d, isScalar x = true) →
    balCoreEnc (fun i x => roundCp dg x i (keyf i) .sha256) n d = .ok c →
    (∀ x ∈ c, isScalar x = true) ∧ c.length = d.length + d.length % 2 ∧
      ∃ b p : Units, utf8 c = .ok b ∧ utf8 (padUnits d) = .ok p ∧ b.length = p.length

/-! ## The format-preserving cipher and the integer variant -/

/-- R147, R151: one FPE round on halves that differ by at most one: the new right half is the left half XORed with the
mask of the neutral-extended right half, and the decrypt round takes it back. The cores are these rounds in order and in
reverse order, between a split and a join (R147, R150). -/
def Obligations.FpeRoundIsInvertedByItsMirror : Prop :=
  (∀ (f : Nat → Units → Except ErrCode Units) (n : Nat) (v l r : Units) (p q : Units × Units),
    fpeCoreEnc f n [] = .ok [] ∧ fpeCoreDec f n [] = .ok [] ∧
    (v ≠ [] → fpeEncRounds f n (v.take (v.length / 2), v.drop (v.length / 2)) = .ok (l, r) →
      fpeCoreEnc f n v = .ok (l ++ r)) ∧
    fpeEncRounds f 0 p = .ok p ∧
    (fpeEncRounds f n p = .ok q → fpeEncRounds f (n + 1) p = fpeEncRound f n q) ∧
    (v ≠ [] → ∀ h, h = (if n % 2 = 1 ∧ v.length % 2 = 1 then v.length / 2 + 1 else v.length / 2) →
      fpeDecRounds f n (v.take h, v.drop h) = .ok (l, r) → fpeCoreDec f n v = .ok (l ++ r)) ∧
    fpeDecRounds f 0 p = .ok p ∧
    (fpeDecRound f n p = .ok q → fpeDecRounds f (n + 1) p = fpeDecRounds f n q)) ∧
  ∀ (dg : DigestFn) (kb : Units) (e : Engine) (i : Nat) (l r : Units), kb ≠ [] →
    l.length ≤ r.length + 1 → r.length ≤ l.length + 1 →
    ∃ rnd nR : Units,
      roundB dg (r ++ List.replicate (l.length - r.length) 0) i kb e = .ok rnd ∧
      nR.length = l.length ∧ (∀ j < l.length, nR.getD j 0 = l.getD j 0 ^^^ rnd.getD j 0) ∧
      fpeEncRound (fun i x => roundB dg x i kb e) i (l, r) = .ok (r, nR) ∧
      fpeDecRound (fun i x => roundB dg x i kb e) i (r, nR) = .ok (l, r)

/-- R149, R148: FPE_CORE_ENC is total on byte vectors under a non-empty key, and gives a byte vector of the same length;
before round i the halves have the lengths R148 gives. -/
def Obligations.FpeEncryptionPreservesLengthAndBytes : Prop :=
  ∀ (dg : DigestFn) (kb : Units) (e : Engine) (n : Nat) (p : Units), kb ≠ [] → (∀ x ∈ p, x < 256) →
    (∃ c : Units, fpeCoreEnc (fun i x => roundB dg x i kb e) n p = .ok c ∧ c.length = p.length ∧ ∀ x ∈ c, x < 256) ∧
    ∃ l r : Units, fpeEncRounds (fun i x => roundB dg x i kb e) n (splitUnits p) = .ok (l, r) ∧
      (n % 2 = 0 → l.length = p.length / 2 ∧ r.length = p.length - p.length / 2) ∧
      (n % 2 = 1 → l.length = p.length - p.length / 2 ∧ r.length = p.length / 2)

/-- R151: the FPE cores are inverse to each other on byte vectors, both ways, for every length, key, engine, round count
and digest; and neither raises there. -/
def Obligations.FpeCoresAreInverse : Prop :=
  ∀ (dg : DigestFn) (kb : Units) (e : Engine) (n : Nat) (v : Units), kb ≠ [] → (∀ x ∈ v, x < 256) →
    (∃ c : Units, fpeCoreEnc (fun i x => roundB dg x i kb e) n v = .ok c ∧
      fpeCoreDec (fun i x => roundB dg x i kb e) n c = .ok v) ∧
    ∃ p : Units, fpeCoreDec (fun i x => roundB dg x i kb e) n v = .ok p ∧
      fpeCoreEnc (fun i x => roundB dg x i kb e) n p = .ok v

/-- R156, R157, R146, R154: FPE_ENC and FPE_DEC under a latched FPE configuration always complete on input in range, with as
many units as the input has. Their errors are 0xE1, then 0xE4 or, for text, 0x32, then 0xE2. -/
def Obligations.FpeByteCommandsComplete : Prop :=
  (∀ s : State, s.Good → s.latched .fpe → s.ilen.toNat ≤ s.params.obufDepth →
    ∃ (kb : Units) (e : Engine), utf8 (s.keyCps 0) = .ok kb ∧ engineOfNumber s.engine.toNat = some e ∧
    (s.inputOk isByte → ∃ c : Units, c.length = s.ilen.toNat ∧
      fpeCoreEnc (fun i x => roundB Config.digest x i kb e) s.rounds.toNat s.inUnits = .ok c ∧
      exec (.fpeEnc .raw) s = .next (s.afterOutput c) ∧
      exec (.fpeEnc .rendered) s = .next (s.afterOutput (c.map fun x => s.params.b256.getD x 0))) ∧
    (s.inputOk isByte → ∃ p : Units, p.length = s.ilen.toNat ∧
      fpeCoreDec (fun i x => roundB Config.digest x i kb e) s.rounds.toNat s.inUnits = .ok p ∧
      exec (.fpeDec .raw) s = .next (s.afterOutput p)) ∧
    (∀ c : Units, (∀ x ∈ c, x < 256) → s.inUnits = c.map (fun x => s.params.b256.getD x 0) →
      s.ilen.toNat ≤ s.params.ibufDepth → ∃ p : Units, p.length = s.ilen.toNat ∧
      fpeCoreDec (fun i x => roundB Config.digest x i kb e) s.rounds.toNat c = .ok p ∧
      exec (.fpeDec .rendered) s = .next (s.afterOutput p))) ∧
  ∀ (s : State) (f : Form), s.latched .fpe →
    (s.params.ibufDepth < s.ilen.toNat → exec (.fpeEnc f) s = .next (s.afterOutputError .capacityIn) ∧
      exec (.fpeDec f) s = .next (s.afterOutputError .capacityIn)) ∧
    (s.ilen.toNat ≤ s.params.ibufDepth →
      ((∃ j < s.ilen.toNat, 0xFF < (s.ibufWord j).toNat) → exec (.fpeEnc f) s = .next (s.afterOutputError .badUnit) ∧
        exec (.fpeDec .raw) s = .next (s.afterOutputError .badUnit)) ∧
      ((∃ j < s.ilen.toNat, (s.ibufWord j).toNat ∉ s.params.b256) →
        exec (.fpeDec .rendered) s = .next (s.afterOutputError .ctBadChar))) ∧
    (s.Good → s.params.obufDepth < s.ilen.toNat →
      (s.inputOk isByte → exec (.fpeEnc f) s = .next (s.afterOutputError .capacityOut) ∧
        exec (.fpeDec .raw) s = .next (s.afterOutputError .capacityOut)) ∧
      (s.ilen.toNat ≤ s.params.ibufDepth → (∀ j < s.ilen.toNat, (s.ibufWord j).toNat ∈ s.params.b256) →
        exec (.fpeDec .rendered) s = .next (s.afterOutputError .capacityOut)))

/-- R158, R159, R153: the string commands wrap the byte core in UTF-8. FPE_ENC_STR always completes with |UTF8(IN)|
units; FPE_DEC_STR completes where the decrypted bytes are UTF-8 and raises 0x33 where they are not. Before that come
0xE1 and 0xE4 or, for text, 0x32, and after it 0xE2. -/
def Obligations.FpeStringCommandsWrapTheByteCore : Prop :=
  (∀ (s : State) (kb : Units) (e : Engine), s.Good → s.latched .fpe → utf8 (s.keyCps 0) = .ok kb →
    engineOfNumber s.engine.toNat = some e →
    (∀ (p : Units) (f : Form), s.inputOk isScalar → utf8 s.inUnits = .ok p → s.params.obufDepth < p.length →
      exec (.fpeEncStr f) s = .next (s.afterOutputError .capacityOut)) ∧
    (∀ p : Units, s.inputOk isScalar → utf8 s.inUnits = .ok p → p.length ≤ s.params.obufDepth →
      ∃ c : Units, c.length = p.length ∧
        fpeCoreEnc (fun i x => roundB Config.digest x i kb e) s.rounds.toNat p = .ok c ∧
        exec (.fpeEncStr .raw) s = .next (s.afterOutput c) ∧
        exec (.fpeEncStr .rendered) s = .next (s.afterOutput (c.map fun x => s.params.b256.getD x 0))) ∧
    (∀ (f : Form) (c p : Units),
      (f = .raw ∧ s.inputOk isByte ∧ c = s.inUnits ∨
        f = .rendered ∧ s.ilen.toNat ≤ s.params.ibufDepth ∧ (∀ x ∈ c, x < 256) ∧
          s.inUnits = c.map (fun x => s.params.b256.getD x 0)) →
      fpeCoreDec (fun i x => roundB Config.digest x i kb e) s.rounds.toNat c = .ok p →
      (∀ v : Units, utf8 v = .ok p → v.length ≤ s.params.obufDepth →
        exec (.fpeDecStr f) s = .next (s.afterOutput v)) ∧
      (∀ v : Units, utf8 v = .ok p → s.params.obufDepth < v.length →
        exec (.fpeDecStr f) s = .next (s.afterOutputError .capacityOut)) ∧
      ((∀ v, utf8 v ≠ .ok p) → exec (.fpeDecStr f) s = .next (s.afterOutputError .ctBadUtf8)))) ∧
  ∀ (s : State) (f : Form), s.latched .fpe →
    (s.params.ibufDepth < s.ilen.toNat → exec (.fpeEncStr f) s = .next (s.afterOutputError .capacityIn) ∧
      exec (.fpeDecStr f) s = .next (s.afterOutputError .capacityIn)) ∧
    (s.ilen.toNat ≤ s.params.ibufDepth →
      ((∃ j < s.ilen.toNat, isScalar (s.ibufWord j).toNat = false) →
        exec (.fpeEncStr f) s = .next (s.afterOutputError .badUnit)) ∧
      ((∃ j < s.ilen.toNat, 0xFF < (s.ibufWord j).toNat) →
        exec (.fpeDecStr .raw) s = .next (s.afterOutputError .badUnit)) ∧
      ((∃ j < s.ilen.toNat, (s.ibufWord j).toNat ∉ s.params.b256) →
        exec (.fpeDecStr .rendered) s = .next (s.afterOutputError .ctBadChar)))

/-- R167, R168, R163, R165: NUM_ENC and NUM_DEC under a latched FPE configuration, for every value that fits: zero gives
zero, any other value the core's output on its big-endian buffer, of the same width. What a big-endian buffer is comes
first: the most significant byte is element 0 (R58, R162), where the words of NUM_IN and NUM_OUT have the least significant
one first (R35, R36, R57). -/
def Obligations.NumberCommandsKeepTheWidth : Prop :=
  (∀ n x : Nat, (beBytes n x).length = n ∧ ∀ j < n, (beBytes n x).getD j 0 = x / 2 ^ (8 * (n - 1 - j)) % 256) ∧
  (∀ b : Units, unBe b = ((List.range b.length).map fun j => b.getD j 0 * 2 ^ (8 * (b.length - 1 - j))).sum) ∧
  (∀ s : State,
    s.numIn = s.numIn3.toNat * 2 ^ 96 + s.numIn2.toNat * 2 ^ 64 + s.numIn1.toNat * 2 ^ 32 + s.numIn0.toNat ∧
    s.numOut = s.numOut1.toNat * 2 ^ 32 + s.numOut0.toNat) ∧
  ∀ (s : State) (w : Width) (n : Nat), s.Good → s.latched .fpe →
    n = (match w with
      | .auto => if s.numIn < 2 ^ 16 then 2 else if s.numIn < 2 ^ 32 then 4 else 8
      | .two => 2 | .four => 4 | .eight => 8) →
    s.numIn < 2 ^ 64 → s.numIn < 2 ^ (8 * n) →
    (s.numIn = 0 → exec (.numEnc w) s = .next (s.afterNumber 0 n) ∧ exec (.numDec w) s = .next (s.afterNumber 0 n)) ∧
    (s.numIn ≠ 0 → ∃ (kb : Units) (e : Engine) (c p : Units), utf8 (s.keyCps 0) = .ok kb ∧
      engineOfNumber s.engine.toNat = some e ∧
      fpeCoreEnc (fun i x => roundB Config.digest x i kb e) s.rounds.toNat (beBytes n s.numIn) = .ok c ∧
      fpeCoreDec (fun i x => roundB Config.digest x i kb e) s.rounds.toNat (beBytes n s.numIn) = .ok p ∧
      exec (.numEnc w) s = .next (s.afterNumber (unBe c) n) ∧ unBe c < 2 ^ (8 * n) ∧
      exec (.numDec w) s = .next (s.afterNumber (unBe p) n) ∧ unBe p < 2 ^ (8 * n))

/-- R164: the magnitude checks, 0x41 before 0x42; AUTO never raises 0x42. -/
def Obligations.NumberCommandsCheckTheMagnitude : Prop :=
  ∀ s : State, s.latched .fpe →
    (2 ^ 64 ≤ s.numIn → ∀ w, exec (.numEnc w) s = .next (s.afterNumberError .magnitude) ∧
      exec (.numDec w) s = .next (s.afterNumberError .magnitude)) ∧
    (s.numIn < 2 ^ 64 → ∀ e ∈ [(Width.two, 2), (.four, 4)], 2 ^ (8 * e.2) ≤ s.numIn →
      exec (.numEnc e.1) s = .next (s.afterNumberError .widthFit) ∧
      exec (.numDec e.1) s = .next (s.afterNumberError .widthFit)) ∧
    (∀ t, (exec (.numEnc .auto) s = .next t ∨ exec (.numDec .auto) s = .next t) → s.errCode = 0 →
      t.errCode ≠ ErrCode.widthFit.code)

/-- R169: with an explicit width NUM_DEC takes NUM_ENC back for zero and every value whose encryption is not zero; under AUTO it
does exactly where the value is 0, or its encryption is not zero and needs the same width. `t` is the state after the
encryption, and the HOST has copied its result to NUM_IN. -/
def Obligations.IntegerRoundTrips : Prop :=
  ∀ (s t u : State), s.Good → s.latched .fpe →
    u = { t with numIn0 := t.numOut0, numIn1 := t.numOut1, numIn2 := 0, numIn3 := 0 } →
    (∀ e ∈ [(Width.two, 2), (.four, 4), (.eight, 8)], s.numIn < 2 ^ (8 * e.2) →
      exec (.numEnc e.1) s = .next t → (s.numIn = 0 ∨ t.numOut ≠ 0) →
      exec (.numDec e.1) u = .next (u.afterNumber s.numIn e.2)) ∧
    (s.numIn < 2 ^ 64 → exec (.numEnc .auto) s = .next t →
      ∃ v : State, exec (.numDec .auto) u = .next v ∧
        (v.numOut = s.numIn ↔ s.numIn = 0 ∨
          (t.numOut ≠ 0 ∧ (t.numOut < 2 ^ 16 ↔ s.numIn < 2 ^ 16) ∧ (t.numOut < 2 ^ 32 ↔ s.numIn < 2 ^ 32))))

/-! ## Text and arithmetic laws -/

/-- R103: UTF8DEC gives the one vector of scalar values that encodes to `b`, and 0x33 where there is none. UTF8 itself, by
R102 and R15: the byte patterns of the scalar values in order (standard UTF-8, which the spec takes from general knowledge),
and 0xE3 where an element is none. -/
def Obligations.Utf8DecodingInvertsEncoding : Prop :=
  (∀ c : Nat, (isScalar c = true ↔ c ≤ 0x10FFFF ∧ ¬ (0xD800 ≤ c ∧ c ≤ 0xDFFF)) ∧
    (isScalar c = true → utf8 [c] = .ok (if c ≤ 0x7F then [c] else if c ≤ 0x7FF then [0xC0 + c / 64, 0x80 + c % 64]
      else if c ≤ 0xFFFF then [0xE0 + c / 4096, 0x80 + c / 64 % 64, 0x80 + c % 64]
      else [0xF0 + c / 262144, 0x80 + c / 4096 % 64, 0x80 + c / 64 % 64, 0x80 + c % 64]))) ∧
  (∀ v w a b : Units, utf8 [] = .ok [] ∧ (utf8 v = .ok a → utf8 w = .ok b → utf8 (v ++ w) = .ok (a ++ b)) ∧
    ((∃ c ∈ v, isScalar c = false) → utf8 v = .error .unencodable)) ∧
  (∀ b v : Units, utf8Dec b = .ok v ↔ utf8 v = .ok b) ∧
    ∀ b : Units, (∀ v, utf8 v ≠ .ok b) → utf8Dec b = .error .ctBadUtf8

/-- R104: one byte position of ADD_BYTES is the UTF-8 of the sum modulo 256. -/
def Obligations.ByteAddIsUtf8OfTheSum : Prop :=
  ∀ a b : Nat, a < 256 → b < 256 → addBytes [a] [b] = utf8 [(a + b) % 256]

/-- R109: XOR with a mask up to 0x7F keeps a scalar value a scalar value of the same UTF-8 length. -/
def Obligations.HexMaskKeepsScalarsAndLength : Prop :=
  ∀ c m : Nat, isScalar c = true → m ≤ 0x7F →
    isScalar (c ^^^ m) = true ∧
      ∃ b b' : Units, utf8 [c] = .ok b ∧ utf8 [c ^^^ m] = .ok b' ∧ b.length = b'.length
end

