-- ==== Sys2Proof/Laws/State.lean ====
section
/-! SUPPORT. One lemma per field per named update, each true by unfolding the update, so that no later proof
unfolds a record update. -/

namespace Sys2Proof.Machine

/-! ## STATUS -/

@[simp] theorem Status.reset_busy : Status.reset.busy = false := rfl
@[simp] theorem Status.reset_done : Status.reset.done = false := rfl
@[simp] theorem Status.reset_err : Status.reset.err = false := rfl
@[simp] theorem Status.reset_ovr : Status.reset.ovr = false := rfl
@[simp] theorem Status.reset_cfgValid : Status.reset.cfgValid = false := rfl
@[simp] theorem Status.reset_cfgVar : Status.reset.cfgVar = .bal := rfl

@[simp] theorem Status.accept_busy (st : Status) : st.accept.busy = true := rfl
@[simp] theorem Status.accept_done (st : Status) : st.accept.done = false := rfl
@[simp] theorem Status.accept_err (st : Status) : st.accept.err = false := rfl
@[simp] theorem Status.accept_ovr (st : Status) : st.accept.ovr = st.ovr := rfl
@[simp] theorem Status.accept_cfgValid (st : Status) : st.accept.cfgValid = st.cfgValid := rfl
@[simp] theorem Status.accept_cfgVar (st : Status) : st.accept.cfgVar = st.cfgVar := rfl

@[simp] theorem Status.complete_busy (st : Status) : st.complete.busy = false := rfl
@[simp] theorem Status.complete_done (st : Status) : st.complete.done = true := rfl
@[simp] theorem Status.complete_err (st : Status) : st.complete.err = st.err := rfl
@[simp] theorem Status.complete_ovr (st : Status) : st.complete.ovr = st.ovr := rfl
@[simp] theorem Status.complete_cfgValid (st : Status) : st.complete.cfgValid = st.cfgValid := rfl
@[simp] theorem Status.complete_cfgVar (st : Status) : st.complete.cfgVar = st.cfgVar := rfl

@[simp] theorem Status.completeErr_busy (st : Status) : st.completeErr.busy = false := rfl
@[simp] theorem Status.completeErr_done (st : Status) : st.completeErr.done = true := rfl
@[simp] theorem Status.completeErr_err (st : Status) : st.completeErr.err = true := rfl
@[simp] theorem Status.completeErr_ovr (st : Status) : st.completeErr.ovr = st.ovr := rfl
@[simp] theorem Status.completeErr_cfgValid (st : Status) : st.completeErr.cfgValid = st.cfgValid := rfl
@[simp] theorem Status.completeErr_cfgVar (st : Status) : st.completeErr.cfgVar = st.cfgVar := rfl

@[simp] theorem Status.w1c_busy (st : Status) (v : Word) : (st.w1c v).busy = st.busy := rfl
@[simp] theorem Status.w1c_done (st : Status) (v : Word) : (st.w1c v).done = (st.done && !v.getLsbD 1) := rfl
@[simp] theorem Status.w1c_err (st : Status) (v : Word) : (st.w1c v).err = (st.err && !v.getLsbD 2) := rfl
@[simp] theorem Status.w1c_ovr (st : Status) (v : Word) : (st.w1c v).ovr = (st.ovr && !v.getLsbD 3) := rfl
@[simp] theorem Status.w1c_cfgValid (st : Status) (v : Word) : (st.w1c v).cfgValid = st.cfgValid := rfl
@[simp] theorem Status.w1c_cfgVar (st : Status) (v : Word) : (st.w1c v).cfgVar = st.cfgVar := rfl

@[simp] theorem Status.clearConfig_busy (st : Status) : st.clearConfig.busy = st.busy := rfl
@[simp] theorem Status.clearConfig_done (st : Status) : st.clearConfig.done = st.done := rfl
@[simp] theorem Status.clearConfig_err (st : Status) : st.clearConfig.err = st.err := rfl
@[simp] theorem Status.clearConfig_ovr (st : Status) : st.clearConfig.ovr = st.ovr := rfl
@[simp] theorem Status.clearConfig_cfgValid (st : Status) : st.clearConfig.cfgValid = false := rfl
@[simp] theorem Status.clearConfig_cfgVar (st : Status) : st.clearConfig.cfgVar = .bal := rfl

@[simp] theorem Status.latch_busy (st : Status) (v : Variant) : (st.latch v).busy = st.busy := rfl
@[simp] theorem Status.latch_done (st : Status) (v : Variant) : (st.latch v).done = st.done := rfl
@[simp] theorem Status.latch_err (st : Status) (v : Variant) : (st.latch v).err = st.err := rfl
@[simp] theorem Status.latch_ovr (st : Status) (v : Variant) : (st.latch v).ovr = st.ovr := rfl
@[simp] theorem Status.latch_cfgValid (st : Status) (v : Variant) : (st.latch v).cfgValid = true := rfl
@[simp] theorem Status.latch_cfgVar (st : Status) (v : Variant) : (st.latch v).cfgVar = v := rfl

@[simp] theorem Status.overrun_busy (st : Status) : st.overrun.busy = st.busy := rfl
@[simp] theorem Status.overrun_done (st : Status) : st.overrun.done = st.done := rfl
@[simp] theorem Status.overrun_err (st : Status) : st.overrun.err = st.err := rfl
@[simp] theorem Status.overrun_ovr (st : Status) : st.overrun.ovr = true := rfl
@[simp] theorem Status.overrun_cfgValid (st : Status) : st.overrun.cfgValid = st.cfgValid := rfl
@[simp] theorem Status.overrun_cfgVar (st : Status) : st.overrun.cfgVar = st.cfgVar := rfl

/-! ## `complete` -/

@[simp] theorem State.complete_params (s : State) : s.complete.params = s.params := rfl
@[simp] theorem State.complete_irqEn (s : State) : s.complete.irqEn = s.irqEn := rfl
@[simp] theorem State.complete_status (s : State) : s.complete.status = s.status.complete := rfl
@[simp] theorem State.complete_errCode (s : State) : s.complete.errCode = s.errCode := rfl
@[simp] theorem State.complete_cmd (s : State) : s.complete.cmd = s.cmd := rfl
@[simp] theorem State.complete_engine (s : State) : s.complete.engine = s.engine := rfl
@[simp] theorem State.complete_rounds (s : State) : s.complete.rounds = s.rounds := rfl
@[simp] theorem State.complete_nkeys (s : State) : s.complete.nkeys = s.nkeys := rfl
@[simp] theorem State.complete_keySel (s : State) : s.complete.keySel = s.keySel := rfl
@[simp] theorem State.complete_keyLen (s : State) : s.complete.keyLen = s.keyLen := rfl
@[simp] theorem State.complete_ilen (s : State) : s.complete.ilen = s.ilen := rfl
@[simp] theorem State.complete_olen (s : State) : s.complete.olen = s.olen := rfl
@[simp] theorem State.complete_arg0 (s : State) : s.complete.arg0 = s.arg0 := rfl
@[simp] theorem State.complete_arg1 (s : State) : s.complete.arg1 = s.arg1 := rfl
@[simp] theorem State.complete_numIn0 (s : State) : s.complete.numIn0 = s.numIn0 := rfl
@[simp] theorem State.complete_numIn1 (s : State) : s.complete.numIn1 = s.numIn1 := rfl
@[simp] theorem State.complete_numIn2 (s : State) : s.complete.numIn2 = s.numIn2 := rfl
@[simp] theorem State.complete_numIn3 (s : State) : s.complete.numIn3 = s.numIn3 := rfl
@[simp] theorem State.complete_numOut0 (s : State) : s.complete.numOut0 = s.numOut0 := rfl
@[simp] theorem State.complete_numOut1 (s : State) : s.complete.numOut1 = s.numOut1 := rfl
@[simp] theorem State.complete_numWidth (s : State) : s.complete.numWidth = s.numWidth := rfl
@[simp] theorem State.complete_key (s : State) : s.complete.key = s.key := rfl
@[simp] theorem State.complete_ibuf (s : State) : s.complete.ibuf = s.ibuf := rfl
@[simp] theorem State.complete_obuf (s : State) : s.complete.obuf = s.obuf := rfl
@[simp] theorem State.complete_rst (s : State) : s.complete.rst = s.rst := rfl
@[simp] theorem State.complete_memEpoch (s : State) : s.complete.memEpoch = s.memEpoch := rfl
@[simp] theorem State.complete_obufEpoch (s : State) : s.complete.obufEpoch = s.obufEpoch := rfl
@[simp] theorem State.complete_draws (s : State) : s.complete.draws = s.draws := rfl
@[simp] theorem State.complete_engineDelay (s : State) : s.complete.engineDelay = s.engineDelay := rfl
@[simp] theorem State.complete_hostQueue (s : State) : s.complete.hostQueue = s.hostQueue := rfl
@[simp] theorem State.complete_hostLog (s : State) : s.complete.hostLog = s.hostLog := rfl

/-! ## `clearObuf` -/

@[simp] theorem State.clearObuf_params (s : State) : s.clearObuf.params = s.params := rfl
@[simp] theorem State.clearObuf_irqEn (s : State) : s.clearObuf.irqEn = s.irqEn := rfl
@[simp] theorem State.clearObuf_status (s : State) : s.clearObuf.status = s.status := rfl
@[simp] theorem State.clearObuf_errCode (s : State) : s.clearObuf.errCode = s.errCode := rfl
@[simp] theorem State.clearObuf_cmd (s : State) : s.clearObuf.cmd = s.cmd := rfl
@[simp] theorem State.clearObuf_engine (s : State) : s.clearObuf.engine = s.engine := rfl
@[simp] theorem State.clearObuf_rounds (s : State) : s.clearObuf.rounds = s.rounds := rfl
@[simp] theorem State.clearObuf_nkeys (s : State) : s.clearObuf.nkeys = s.nkeys := rfl
@[simp] theorem State.clearObuf_keySel (s : State) : s.clearObuf.keySel = s.keySel := rfl
@[simp] theorem State.clearObuf_keyLen (s : State) : s.clearObuf.keyLen = s.keyLen := rfl
@[simp] theorem State.clearObuf_ilen (s : State) : s.clearObuf.ilen = s.ilen := rfl
@[simp] theorem State.clearObuf_olen (s : State) : s.clearObuf.olen = s.olen := rfl
@[simp] theorem State.clearObuf_arg0 (s : State) : s.clearObuf.arg0 = s.arg0 := rfl
@[simp] theorem State.clearObuf_arg1 (s : State) : s.clearObuf.arg1 = s.arg1 := rfl
@[simp] theorem State.clearObuf_numIn0 (s : State) : s.clearObuf.numIn0 = s.numIn0 := rfl
@[simp] theorem State.clearObuf_numIn1 (s : State) : s.clearObuf.numIn1 = s.numIn1 := rfl
@[simp] theorem State.clearObuf_numIn2 (s : State) : s.clearObuf.numIn2 = s.numIn2 := rfl
@[simp] theorem State.clearObuf_numIn3 (s : State) : s.clearObuf.numIn3 = s.numIn3 := rfl
@[simp] theorem State.clearObuf_numOut0 (s : State) : s.clearObuf.numOut0 = s.numOut0 := rfl
@[simp] theorem State.clearObuf_numOut1 (s : State) : s.clearObuf.numOut1 = s.numOut1 := rfl
@[simp] theorem State.clearObuf_numWidth (s : State) : s.clearObuf.numWidth = s.numWidth := rfl
@[simp] theorem State.clearObuf_key (s : State) : s.clearObuf.key = s.key := rfl
@[simp] theorem State.clearObuf_ibuf (s : State) : s.clearObuf.ibuf = s.ibuf := rfl
@[simp] theorem State.clearObuf_obuf (s : State) : s.clearObuf.obuf = [] := rfl
@[simp] theorem State.clearObuf_rst (s : State) : s.clearObuf.rst = s.rst := rfl
@[simp] theorem State.clearObuf_memEpoch (s : State) : s.clearObuf.memEpoch = s.memEpoch := rfl
@[simp] theorem State.clearObuf_obufEpoch (s : State) : s.clearObuf.obufEpoch = s.draws := rfl
@[simp] theorem State.clearObuf_draws (s : State) : s.clearObuf.draws = s.draws + 1 := rfl
@[simp] theorem State.clearObuf_engineDelay (s : State) : s.clearObuf.engineDelay = s.engineDelay := rfl
@[simp] theorem State.clearObuf_hostQueue (s : State) : s.clearObuf.hostQueue = s.hostQueue := rfl
@[simp] theorem State.clearObuf_hostLog (s : State) : s.clearObuf.hostLog = s.hostLog := rfl

/-! ## `outWrite` -/

@[simp] theorem State.outWrite_params (s : State) (v : Units) : (s.outWrite v).params = s.params := rfl
@[simp] theorem State.outWrite_irqEn (s : State) (v : Units) : (s.outWrite v).irqEn = s.irqEn := rfl
@[simp] theorem State.outWrite_status (s : State) (v : Units) : (s.outWrite v).status = s.status := rfl
@[simp] theorem State.outWrite_errCode (s : State) (v : Units) : (s.outWrite v).errCode = s.errCode := rfl
@[simp] theorem State.outWrite_cmd (s : State) (v : Units) : (s.outWrite v).cmd = s.cmd := rfl
@[simp] theorem State.outWrite_engine (s : State) (v : Units) : (s.outWrite v).engine = s.engine := rfl
@[simp] theorem State.outWrite_rounds (s : State) (v : Units) : (s.outWrite v).rounds = s.rounds := rfl
@[simp] theorem State.outWrite_nkeys (s : State) (v : Units) : (s.outWrite v).nkeys = s.nkeys := rfl
@[simp] theorem State.outWrite_keySel (s : State) (v : Units) : (s.outWrite v).keySel = s.keySel := rfl
@[simp] theorem State.outWrite_keyLen (s : State) (v : Units) : (s.outWrite v).keyLen = s.keyLen := rfl
@[simp] theorem State.outWrite_ilen (s : State) (v : Units) : (s.outWrite v).ilen = s.ilen := rfl
@[simp] theorem State.outWrite_olen (s : State) (v : Units) : (s.outWrite v).olen = BitVec.ofNat 16 v.length := rfl
@[simp] theorem State.outWrite_arg0 (s : State) (v : Units) : (s.outWrite v).arg0 = s.arg0 := rfl
@[simp] theorem State.outWrite_arg1 (s : State) (v : Units) : (s.outWrite v).arg1 = s.arg1 := rfl
@[simp] theorem State.outWrite_numIn0 (s : State) (v : Units) : (s.outWrite v).numIn0 = s.numIn0 := rfl
@[simp] theorem State.outWrite_numIn1 (s : State) (v : Units) : (s.outWrite v).numIn1 = s.numIn1 := rfl
@[simp] theorem State.outWrite_numIn2 (s : State) (v : Units) : (s.outWrite v).numIn2 = s.numIn2 := rfl
@[simp] theorem State.outWrite_numIn3 (s : State) (v : Units) : (s.outWrite v).numIn3 = s.numIn3 := rfl
@[simp] theorem State.outWrite_numOut0 (s : State) (v : Units) : (s.outWrite v).numOut0 = s.numOut0 := rfl
@[simp] theorem State.outWrite_numOut1 (s : State) (v : Units) : (s.outWrite v).numOut1 = s.numOut1 := rfl
@[simp] theorem State.outWrite_numWidth (s : State) (v : Units) : (s.outWrite v).numWidth = s.numWidth := rfl
@[simp] theorem State.outWrite_key (s : State) (v : Units) : (s.outWrite v).key = s.key := rfl
@[simp] theorem State.outWrite_ibuf (s : State) (v : Units) : (s.outWrite v).ibuf = s.ibuf := rfl
@[simp] theorem State.outWrite_obuf (s : State) (v : Units) : (s.outWrite v).obuf = Memory.writeUnits [] 0 v := rfl
@[simp] theorem State.outWrite_rst (s : State) (v : Units) : (s.outWrite v).rst = s.rst := rfl
@[simp] theorem State.outWrite_memEpoch (s : State) (v : Units) : (s.outWrite v).memEpoch = s.memEpoch := rfl
@[simp] theorem State.outWrite_obufEpoch (s : State) (v : Units) : (s.outWrite v).obufEpoch = s.draws := rfl
@[simp] theorem State.outWrite_draws (s : State) (v : Units) : (s.outWrite v).draws = s.draws + 1 := rfl
@[simp] theorem State.outWrite_engineDelay (s : State) (v : Units) : (s.outWrite v).engineDelay = s.engineDelay := rfl
@[simp] theorem State.outWrite_hostQueue (s : State) (v : Units) : (s.outWrite v).hostQueue = s.hostQueue := rfl
@[simp] theorem State.outWrite_hostLog (s : State) (v : Units) : (s.outWrite v).hostLog = s.hostLog := rfl

/-! ## `numWrite` -/

@[simp] theorem State.numWrite_params (s : State) (y w : Nat) : (s.numWrite y w).params = s.params := rfl
@[simp] theorem State.numWrite_irqEn (s : State) (y w : Nat) : (s.numWrite y w).irqEn = s.irqEn := rfl
@[simp] theorem State.numWrite_status (s : State) (y w : Nat) : (s.numWrite y w).status = s.status := rfl
@[simp] theorem State.numWrite_errCode (s : State) (y w : Nat) : (s.numWrite y w).errCode = s.errCode := rfl
@[simp] theorem State.numWrite_cmd (s : State) (y w : Nat) : (s.numWrite y w).cmd = s.cmd := rfl
@[simp] theorem State.numWrite_engine (s : State) (y w : Nat) : (s.numWrite y w).engine = s.engine := rfl
@[simp] theorem State.numWrite_rounds (s : State) (y w : Nat) : (s.numWrite y w).rounds = s.rounds := rfl
@[simp] theorem State.numWrite_nkeys (s : State) (y w : Nat) : (s.numWrite y w).nkeys = s.nkeys := rfl
@[simp] theorem State.numWrite_keySel (s : State) (y w : Nat) : (s.numWrite y w).keySel = s.keySel := rfl
@[simp] theorem State.numWrite_keyLen (s : State) (y w : Nat) : (s.numWrite y w).keyLen = s.keyLen := rfl
@[simp] theorem State.numWrite_ilen (s : State) (y w : Nat) : (s.numWrite y w).ilen = s.ilen := rfl
@[simp] theorem State.numWrite_olen (s : State) (y w : Nat) : (s.numWrite y w).olen = s.olen := rfl
@[simp] theorem State.numWrite_arg0 (s : State) (y w : Nat) : (s.numWrite y w).arg0 = s.arg0 := rfl
@[simp] theorem State.numWrite_arg1 (s : State) (y w : Nat) : (s.numWrite y w).arg1 = s.arg1 := rfl
@[simp] theorem State.numWrite_numIn0 (s : State) (y w : Nat) : (s.numWrite y w).numIn0 = s.numIn0 := rfl
@[simp] theorem State.numWrite_numIn1 (s : State) (y w : Nat) : (s.numWrite y w).numIn1 = s.numIn1 := rfl
@[simp] theorem State.numWrite_numIn2 (s : State) (y w : Nat) : (s.numWrite y w).numIn2 = s.numIn2 := rfl
@[simp] theorem State.numWrite_numIn3 (s : State) (y w : Nat) : (s.numWrite y w).numIn3 = s.numIn3 := rfl
@[simp] theorem State.numWrite_numOut0 (s : State) (y w : Nat) : (s.numWrite y w).numOut0 = BitVec.ofNat 32 y := rfl
@[simp] theorem State.numWrite_numOut1 (s : State) (y w : Nat) : (s.numWrite y w).numOut1 = BitVec.ofNat 32 (y / 2 ^ 32) := rfl
@[simp] theorem State.numWrite_numWidth (s : State) (y w : Nat) : (s.numWrite y w).numWidth = BitVec.ofNat 4 w := rfl
@[simp] theorem State.numWrite_key (s : State) (y w : Nat) : (s.numWrite y w).key = s.key := rfl
@[simp] theorem State.numWrite_ibuf (s : State) (y w : Nat) : (s.numWrite y w).ibuf = s.ibuf := rfl
@[simp] theorem State.numWrite_obuf (s : State) (y w : Nat) : (s.numWrite y w).obuf = s.obuf := rfl
@[simp] theorem State.numWrite_rst (s : State) (y w : Nat) : (s.numWrite y w).rst = s.rst := rfl
@[simp] theorem State.numWrite_memEpoch (s : State) (y w : Nat) : (s.numWrite y w).memEpoch = s.memEpoch := rfl
@[simp] theorem State.numWrite_obufEpoch (s : State) (y w : Nat) : (s.numWrite y w).obufEpoch = s.obufEpoch := rfl
@[simp] theorem State.numWrite_draws (s : State) (y w : Nat) : (s.numWrite y w).draws = s.draws := rfl
@[simp] theorem State.numWrite_engineDelay (s : State) (y w : Nat) : (s.numWrite y w).engineDelay = s.engineDelay := rfl
@[simp] theorem State.numWrite_hostQueue (s : State) (y w : Nat) : (s.numWrite y w).hostQueue = s.hostQueue := rfl
@[simp] theorem State.numWrite_hostLog (s : State) (y w : Nat) : (s.numWrite y w).hostLog = s.hostLog := rfl

/-! ## `accept` -/

@[simp] theorem State.accept_params (s : State) (w : Word) : (s.accept w).params = s.params := rfl
@[simp] theorem State.accept_irqEn (s : State) (w : Word) : (s.accept w).irqEn = s.irqEn := rfl
@[simp] theorem State.accept_status (s : State) (w : Word) : (s.accept w).status = s.status.accept := rfl
@[simp] theorem State.accept_errCode (s : State) (w : Word) : (s.accept w).errCode = 0 := rfl
@[simp] theorem State.accept_cmd (s : State) (w : Word) : (s.accept w).cmd = w := rfl
@[simp] theorem State.accept_engine (s : State) (w : Word) : (s.accept w).engine = s.engine := rfl
@[simp] theorem State.accept_rounds (s : State) (w : Word) : (s.accept w).rounds = s.rounds := rfl
@[simp] theorem State.accept_nkeys (s : State) (w : Word) : (s.accept w).nkeys = s.nkeys := rfl
@[simp] theorem State.accept_keySel (s : State) (w : Word) : (s.accept w).keySel = s.keySel := rfl
@[simp] theorem State.accept_keyLen (s : State) (w : Word) : (s.accept w).keyLen = s.keyLen := rfl
@[simp] theorem State.accept_ilen (s : State) (w : Word) : (s.accept w).ilen = s.ilen := rfl
@[simp] theorem State.accept_olen (s : State) (w : Word) : (s.accept w).olen = s.olen := rfl
@[simp] theorem State.accept_arg0 (s : State) (w : Word) : (s.accept w).arg0 = s.arg0 := rfl
@[simp] theorem State.accept_arg1 (s : State) (w : Word) : (s.accept w).arg1 = s.arg1 := rfl
@[simp] theorem State.accept_numIn0 (s : State) (w : Word) : (s.accept w).numIn0 = s.numIn0 := rfl
@[simp] theorem State.accept_numIn1 (s : State) (w : Word) : (s.accept w).numIn1 = s.numIn1 := rfl
@[simp] theorem State.accept_numIn2 (s : State) (w : Word) : (s.accept w).numIn2 = s.numIn2 := rfl
@[simp] theorem State.accept_numIn3 (s : State) (w : Word) : (s.accept w).numIn3 = s.numIn3 := rfl
@[simp] theorem State.accept_numOut0 (s : State) (w : Word) : (s.accept w).numOut0 = s.numOut0 := rfl
@[simp] theorem State.accept_numOut1 (s : State) (w : Word) : (s.accept w).numOut1 = s.numOut1 := rfl
@[simp] theorem State.accept_numWidth (s : State) (w : Word) : (s.accept w).numWidth = s.numWidth := rfl
@[simp] theorem State.accept_key (s : State) (w : Word) : (s.accept w).key = s.key := rfl
@[simp] theorem State.accept_ibuf (s : State) (w : Word) : (s.accept w).ibuf = s.ibuf := rfl
@[simp] theorem State.accept_obuf (s : State) (w : Word) : (s.accept w).obuf = s.obuf := rfl
@[simp] theorem State.accept_rst (s : State) (w : Word) : (s.accept w).rst = s.rst := rfl
@[simp] theorem State.accept_memEpoch (s : State) (w : Word) : (s.accept w).memEpoch = s.memEpoch := rfl
@[simp] theorem State.accept_obufEpoch (s : State) (w : Word) : (s.accept w).obufEpoch = s.obufEpoch := rfl
@[simp] theorem State.accept_draws (s : State) (w : Word) : (s.accept w).draws = s.draws := rfl
@[simp] theorem State.accept_engineDelay (s : State) (w : Word) : (s.accept w).engineDelay = s.engineDelay := rfl
@[simp] theorem State.accept_hostQueue (s : State) (w : Word) : (s.accept w).hostQueue = s.hostQueue := rfl
@[simp] theorem State.accept_hostLog (s : State) (w : Word) : (s.accept w).hostLog = s.hostLog := rfl

/-! ## `raise_output` -/

@[simp] theorem State.raise_output_params (s : State) (e : ErrCode) : (s.raise .output e).params = s.params := rfl
@[simp] theorem State.raise_output_irqEn (s : State) (e : ErrCode) : (s.raise .output e).irqEn = s.irqEn := rfl
@[simp] theorem State.raise_output_status (s : State) (e : ErrCode) : (s.raise .output e).status = s.status.completeErr := rfl
@[simp] theorem State.raise_output_errCode (s : State) (e : ErrCode) : (s.raise .output e).errCode = e.code := rfl
@[simp] theorem State.raise_output_cmd (s : State) (e : ErrCode) : (s.raise .output e).cmd = s.cmd := rfl
@[simp] theorem State.raise_output_engine (s : State) (e : ErrCode) : (s.raise .output e).engine = s.engine := rfl
@[simp] theorem State.raise_output_rounds (s : State) (e : ErrCode) : (s.raise .output e).rounds = s.rounds := rfl
@[simp] theorem State.raise_output_nkeys (s : State) (e : ErrCode) : (s.raise .output e).nkeys = s.nkeys := rfl
@[simp] theorem State.raise_output_keySel (s : State) (e : ErrCode) : (s.raise .output e).keySel = s.keySel := rfl
@[simp] theorem State.raise_output_keyLen (s : State) (e : ErrCode) : (s.raise .output e).keyLen = s.keyLen := rfl
@[simp] theorem State.raise_output_ilen (s : State) (e : ErrCode) : (s.raise .output e).ilen = s.ilen := rfl
@[simp] theorem State.raise_output_olen (s : State) (e : ErrCode) : (s.raise .output e).olen = 0 := rfl
@[simp] theorem State.raise_output_arg0 (s : State) (e : ErrCode) : (s.raise .output e).arg0 = s.arg0 := rfl
@[simp] theorem State.raise_output_arg1 (s : State) (e : ErrCode) : (s.raise .output e).arg1 = s.arg1 := rfl
@[simp] theorem State.raise_output_numIn0 (s : State) (e : ErrCode) : (s.raise .output e).numIn0 = s.numIn0 := rfl
@[simp] theorem State.raise_output_numIn1 (s : State) (e : ErrCode) : (s.raise .output e).numIn1 = s.numIn1 := rfl
@[simp] theorem State.raise_output_numIn2 (s : State) (e : ErrCode) : (s.raise .output e).numIn2 = s.numIn2 := rfl
@[simp] theorem State.raise_output_numIn3 (s : State) (e : ErrCode) : (s.raise .output e).numIn3 = s.numIn3 := rfl
@[simp] theorem State.raise_output_numOut0 (s : State) (e : ErrCode) : (s.raise .output e).numOut0 = s.numOut0 := rfl
@[simp] theorem State.raise_output_numOut1 (s : State) (e : ErrCode) : (s.raise .output e).numOut1 = s.numOut1 := rfl
@[simp] theorem State.raise_output_numWidth (s : State) (e : ErrCode) : (s.raise .output e).numWidth = s.numWidth := rfl
@[simp] theorem State.raise_output_key (s : State) (e : ErrCode) : (s.raise .output e).key = s.key := rfl
@[simp] theorem State.raise_output_ibuf (s : State) (e : ErrCode) : (s.raise .output e).ibuf = s.ibuf := rfl
@[simp] theorem State.raise_output_obuf (s : State) (e : ErrCode) : (s.raise .output e).obuf = [] := rfl
@[simp] theorem State.raise_output_rst (s : State) (e : ErrCode) : (s.raise .output e).rst = s.rst := rfl
@[simp] theorem State.raise_output_memEpoch (s : State) (e : ErrCode) : (s.raise .output e).memEpoch = s.memEpoch := rfl
@[simp] theorem State.raise_output_obufEpoch (s : State) (e : ErrCode) : (s.raise .output e).obufEpoch = s.draws := rfl
@[simp] theorem State.raise_output_draws (s : State) (e : ErrCode) : (s.raise .output e).draws = s.draws + 1 := rfl
@[simp] theorem State.raise_output_engineDelay (s : State) (e : ErrCode) : (s.raise .output e).engineDelay = s.engineDelay := rfl
@[simp] theorem State.raise_output_hostQueue (s : State) (e : ErrCode) : (s.raise .output e).hostQueue = s.hostQueue := rfl
@[simp] theorem State.raise_output_hostLog (s : State) (e : ErrCode) : (s.raise .output e).hostLog = s.hostLog := rfl

/-! ## `raise_number` -/

@[simp] theorem State.raise_number_params (s : State) (e : ErrCode) : (s.raise .number e).params = s.params := rfl
@[simp] theorem State.raise_number_irqEn (s : State) (e : ErrCode) : (s.raise .number e).irqEn = s.irqEn := rfl
@[simp] theorem State.raise_number_status (s : State) (e : ErrCode) : (s.raise .number e).status = s.status.completeErr := rfl
@[simp] theorem State.raise_number_errCode (s : State) (e : ErrCode) : (s.raise .number e).errCode = e.code := rfl
@[simp] theorem State.raise_number_cmd (s : State) (e : ErrCode) : (s.raise .number e).cmd = s.cmd := rfl
@[simp] theorem State.raise_number_engine (s : State) (e : ErrCode) : (s.raise .number e).engine = s.engine := rfl
@[simp] theorem State.raise_number_rounds (s : State) (e : ErrCode) : (s.raise .number e).rounds = s.rounds := rfl
@[simp] theorem State.raise_number_nkeys (s : State) (e : ErrCode) : (s.raise .number e).nkeys = s.nkeys := rfl
@[simp] theorem State.raise_number_keySel (s : State) (e : ErrCode) : (s.raise .number e).keySel = s.keySel := rfl
@[simp] theorem State.raise_number_keyLen (s : State) (e : ErrCode) : (s.raise .number e).keyLen = s.keyLen := rfl
@[simp] theorem State.raise_number_ilen (s : State) (e : ErrCode) : (s.raise .number e).ilen = s.ilen := rfl
@[simp] theorem State.raise_number_olen (s : State) (e : ErrCode) : (s.raise .number e).olen = s.olen := rfl
@[simp] theorem State.raise_number_arg0 (s : State) (e : ErrCode) : (s.raise .number e).arg0 = s.arg0 := rfl
@[simp] theorem State.raise_number_arg1 (s : State) (e : ErrCode) : (s.raise .number e).arg1 = s.arg1 := rfl
@[simp] theorem State.raise_number_numIn0 (s : State) (e : ErrCode) : (s.raise .number e).numIn0 = s.numIn0 := rfl
@[simp] theorem State.raise_number_numIn1 (s : State) (e : ErrCode) : (s.raise .number e).numIn1 = s.numIn1 := rfl
@[simp] theorem State.raise_number_numIn2 (s : State) (e : ErrCode) : (s.raise .number e).numIn2 = s.numIn2 := rfl
@[simp] theorem State.raise_number_numIn3 (s : State) (e : ErrCode) : (s.raise .number e).numIn3 = s.numIn3 := rfl
@[simp] theorem State.raise_number_numOut0 (s : State) (e : ErrCode) : (s.raise .number e).numOut0 = 0 := rfl
@[simp] theorem State.raise_number_numOut1 (s : State) (e : ErrCode) : (s.raise .number e).numOut1 = 0 := rfl
@[simp] theorem State.raise_number_numWidth (s : State) (e : ErrCode) : (s.raise .number e).numWidth = 0 := rfl
@[simp] theorem State.raise_number_key (s : State) (e : ErrCode) : (s.raise .number e).key = s.key := rfl
@[simp] theorem State.raise_number_ibuf (s : State) (e : ErrCode) : (s.raise .number e).ibuf = s.ibuf := rfl
@[simp] theorem State.raise_number_obuf (s : State) (e : ErrCode) : (s.raise .number e).obuf = s.obuf := rfl
@[simp] theorem State.raise_number_rst (s : State) (e : ErrCode) : (s.raise .number e).rst = s.rst := rfl
@[simp] theorem State.raise_number_memEpoch (s : State) (e : ErrCode) : (s.raise .number e).memEpoch = s.memEpoch := rfl
@[simp] theorem State.raise_number_obufEpoch (s : State) (e : ErrCode) : (s.raise .number e).obufEpoch = s.obufEpoch := rfl
@[simp] theorem State.raise_number_draws (s : State) (e : ErrCode) : (s.raise .number e).draws = s.draws := rfl
@[simp] theorem State.raise_number_engineDelay (s : State) (e : ErrCode) : (s.raise .number e).engineDelay = s.engineDelay := rfl
@[simp] theorem State.raise_number_hostQueue (s : State) (e : ErrCode) : (s.raise .number e).hostQueue = s.hostQueue := rfl
@[simp] theorem State.raise_number_hostLog (s : State) (e : ErrCode) : (s.raise .number e).hostLog = s.hostLog := rfl

/-! ## `raise_configure` -/

@[simp] theorem State.raise_configure_params (s : State) (e : ErrCode) : (s.raise .configure e).params = s.params := rfl
@[simp] theorem State.raise_configure_irqEn (s : State) (e : ErrCode) : (s.raise .configure e).irqEn = s.irqEn := rfl
@[simp] theorem State.raise_configure_status (s : State) (e : ErrCode) : (s.raise .configure e).status = s.status.clearConfig.completeErr := rfl
@[simp] theorem State.raise_configure_errCode (s : State) (e : ErrCode) : (s.raise .configure e).errCode = e.code := rfl
@[simp] theorem State.raise_configure_cmd (s : State) (e : ErrCode) : (s.raise .configure e).cmd = s.cmd := rfl
@[simp] theorem State.raise_configure_engine (s : State) (e : ErrCode) : (s.raise .configure e).engine = s.engine := rfl
@[simp] theorem State.raise_configure_rounds (s : State) (e : ErrCode) : (s.raise .configure e).rounds = s.rounds := rfl
@[simp] theorem State.raise_configure_nkeys (s : State) (e : ErrCode) : (s.raise .configure e).nkeys = s.nkeys := rfl
@[simp] theorem State.raise_configure_keySel (s : State) (e : ErrCode) : (s.raise .configure e).keySel = s.keySel := rfl
@[simp] theorem State.raise_configure_keyLen (s : State) (e : ErrCode) : (s.raise .configure e).keyLen = s.keyLen := rfl
@[simp] theorem State.raise_configure_ilen (s : State) (e : ErrCode) : (s.raise .configure e).ilen = s.ilen := rfl
@[simp] theorem State.raise_configure_olen (s : State) (e : ErrCode) : (s.raise .configure e).olen = s.olen := rfl
@[simp] theorem State.raise_configure_arg0 (s : State) (e : ErrCode) : (s.raise .configure e).arg0 = s.arg0 := rfl
@[simp] theorem State.raise_configure_arg1 (s : State) (e : ErrCode) : (s.raise .configure e).arg1 = s.arg1 := rfl
@[simp] theorem State.raise_configure_numIn0 (s : State) (e : ErrCode) : (s.raise .configure e).numIn0 = s.numIn0 := rfl
@[simp] theorem State.raise_configure_numIn1 (s : State) (e : ErrCode) : (s.raise .configure e).numIn1 = s.numIn1 := rfl
@[simp] theorem State.raise_configure_numIn2 (s : State) (e : ErrCode) : (s.raise .configure e).numIn2 = s.numIn2 := rfl
@[simp] theorem State.raise_configure_numIn3 (s : State) (e : ErrCode) : (s.raise .configure e).numIn3 = s.numIn3 := rfl
@[simp] theorem State.raise_configure_numOut0 (s : State) (e : ErrCode) : (s.raise .configure e).numOut0 = s.numOut0 := rfl
@[simp] theorem State.raise_configure_numOut1 (s : State) (e : ErrCode) : (s.raise .configure e).numOut1 = s.numOut1 := rfl
@[simp] theorem State.raise_configure_numWidth (s : State) (e : ErrCode) : (s.raise .configure e).numWidth = s.numWidth := rfl
@[simp] theorem State.raise_configure_key (s : State) (e : ErrCode) : (s.raise .configure e).key = s.key := rfl
@[simp] theorem State.raise_configure_ibuf (s : State) (e : ErrCode) : (s.raise .configure e).ibuf = s.ibuf := rfl
@[simp] theorem State.raise_configure_obuf (s : State) (e : ErrCode) : (s.raise .configure e).obuf = s.obuf := rfl
@[simp] theorem State.raise_configure_rst (s : State) (e : ErrCode) : (s.raise .configure e).rst = s.rst := rfl
@[simp] theorem State.raise_configure_memEpoch (s : State) (e : ErrCode) : (s.raise .configure e).memEpoch = s.memEpoch := rfl
@[simp] theorem State.raise_configure_obufEpoch (s : State) (e : ErrCode) : (s.raise .configure e).obufEpoch = s.obufEpoch := rfl
@[simp] theorem State.raise_configure_draws (s : State) (e : ErrCode) : (s.raise .configure e).draws = s.draws := rfl
@[simp] theorem State.raise_configure_engineDelay (s : State) (e : ErrCode) : (s.raise .configure e).engineDelay = s.engineDelay := rfl
@[simp] theorem State.raise_configure_hostQueue (s : State) (e : ErrCode) : (s.raise .configure e).hostQueue = s.hostQueue := rfl
@[simp] theorem State.raise_configure_hostLog (s : State) (e : ErrCode) : (s.raise .configure e).hostLog = s.hostLog := rfl

/-! ## `raise_illegal` -/

@[simp] theorem State.raise_illegal_params (s : State) (e : ErrCode) : (s.raise .illegal e).params = s.params := rfl
@[simp] theorem State.raise_illegal_irqEn (s : State) (e : ErrCode) : (s.raise .illegal e).irqEn = s.irqEn := rfl
@[simp] theorem State.raise_illegal_status (s : State) (e : ErrCode) : (s.raise .illegal e).status = s.status.completeErr := rfl
@[simp] theorem State.raise_illegal_errCode (s : State) (e : ErrCode) : (s.raise .illegal e).errCode = e.code := rfl
@[simp] theorem State.raise_illegal_cmd (s : State) (e : ErrCode) : (s.raise .illegal e).cmd = s.cmd := rfl
@[simp] theorem State.raise_illegal_engine (s : State) (e : ErrCode) : (s.raise .illegal e).engine = s.engine := rfl
@[simp] theorem State.raise_illegal_rounds (s : State) (e : ErrCode) : (s.raise .illegal e).rounds = s.rounds := rfl
@[simp] theorem State.raise_illegal_nkeys (s : State) (e : ErrCode) : (s.raise .illegal e).nkeys = s.nkeys := rfl
@[simp] theorem State.raise_illegal_keySel (s : State) (e : ErrCode) : (s.raise .illegal e).keySel = s.keySel := rfl
@[simp] theorem State.raise_illegal_keyLen (s : State) (e : ErrCode) : (s.raise .illegal e).keyLen = s.keyLen := rfl
@[simp] theorem State.raise_illegal_ilen (s : State) (e : ErrCode) : (s.raise .illegal e).ilen = s.ilen := rfl
@[simp] theorem State.raise_illegal_olen (s : State) (e : ErrCode) : (s.raise .illegal e).olen = s.olen := rfl
@[simp] theorem State.raise_illegal_arg0 (s : State) (e : ErrCode) : (s.raise .illegal e).arg0 = s.arg0 := rfl
@[simp] theorem State.raise_illegal_arg1 (s : State) (e : ErrCode) : (s.raise .illegal e).arg1 = s.arg1 := rfl
@[simp] theorem State.raise_illegal_numIn0 (s : State) (e : ErrCode) : (s.raise .illegal e).numIn0 = s.numIn0 := rfl
@[simp] theorem State.raise_illegal_numIn1 (s : State) (e : ErrCode) : (s.raise .illegal e).numIn1 = s.numIn1 := rfl
@[simp] theorem State.raise_illegal_numIn2 (s : State) (e : ErrCode) : (s.raise .illegal e).numIn2 = s.numIn2 := rfl
@[simp] theorem State.raise_illegal_numIn3 (s : State) (e : ErrCode) : (s.raise .illegal e).numIn3 = s.numIn3 := rfl
@[simp] theorem State.raise_illegal_numOut0 (s : State) (e : ErrCode) : (s.raise .illegal e).numOut0 = s.numOut0 := rfl
@[simp] theorem State.raise_illegal_numOut1 (s : State) (e : ErrCode) : (s.raise .illegal e).numOut1 = s.numOut1 := rfl
@[simp] theorem State.raise_illegal_numWidth (s : State) (e : ErrCode) : (s.raise .illegal e).numWidth = s.numWidth := rfl
@[simp] theorem State.raise_illegal_key (s : State) (e : ErrCode) : (s.raise .illegal e).key = s.key := rfl
@[simp] theorem State.raise_illegal_ibuf (s : State) (e : ErrCode) : (s.raise .illegal e).ibuf = s.ibuf := rfl
@[simp] theorem State.raise_illegal_obuf (s : State) (e : ErrCode) : (s.raise .illegal e).obuf = s.obuf := rfl
@[simp] theorem State.raise_illegal_rst (s : State) (e : ErrCode) : (s.raise .illegal e).rst = s.rst := rfl
@[simp] theorem State.raise_illegal_memEpoch (s : State) (e : ErrCode) : (s.raise .illegal e).memEpoch = s.memEpoch := rfl
@[simp] theorem State.raise_illegal_obufEpoch (s : State) (e : ErrCode) : (s.raise .illegal e).obufEpoch = s.obufEpoch := rfl
@[simp] theorem State.raise_illegal_draws (s : State) (e : ErrCode) : (s.raise .illegal e).draws = s.draws := rfl
@[simp] theorem State.raise_illegal_engineDelay (s : State) (e : ErrCode) : (s.raise .illegal e).engineDelay = s.engineDelay := rfl
@[simp] theorem State.raise_illegal_hostQueue (s : State) (e : ErrCode) : (s.raise .illegal e).hostQueue = s.hostQueue := rfl
@[simp] theorem State.raise_illegal_hostLog (s : State) (e : ErrCode) : (s.raise .illegal e).hostLog = s.hostLog := rfl

/-! ## `w1c` -/

@[simp] theorem State.w1c_params (s : State) (v : Word) : (s.w1c v).params = s.params := rfl
@[simp] theorem State.w1c_irqEn (s : State) (v : Word) : (s.w1c v).irqEn = s.irqEn := rfl
@[simp] theorem State.w1c_status (s : State) (v : Word) : (s.w1c v).status = s.status.w1c v := rfl
@[simp] theorem State.w1c_errCode (s : State) (v : Word) : (s.w1c v).errCode = s.errCode := rfl
@[simp] theorem State.w1c_cmd (s : State) (v : Word) : (s.w1c v).cmd = s.cmd := rfl
@[simp] theorem State.w1c_engine (s : State) (v : Word) : (s.w1c v).engine = s.engine := rfl
@[simp] theorem State.w1c_rounds (s : State) (v : Word) : (s.w1c v).rounds = s.rounds := rfl
@[simp] theorem State.w1c_nkeys (s : State) (v : Word) : (s.w1c v).nkeys = s.nkeys := rfl
@[simp] theorem State.w1c_keySel (s : State) (v : Word) : (s.w1c v).keySel = s.keySel := rfl
@[simp] theorem State.w1c_keyLen (s : State) (v : Word) : (s.w1c v).keyLen = s.keyLen := rfl
@[simp] theorem State.w1c_ilen (s : State) (v : Word) : (s.w1c v).ilen = s.ilen := rfl
@[simp] theorem State.w1c_olen (s : State) (v : Word) : (s.w1c v).olen = s.olen := rfl
@[simp] theorem State.w1c_arg0 (s : State) (v : Word) : (s.w1c v).arg0 = s.arg0 := rfl
@[simp] theorem State.w1c_arg1 (s : State) (v : Word) : (s.w1c v).arg1 = s.arg1 := rfl
@[simp] theorem State.w1c_numIn0 (s : State) (v : Word) : (s.w1c v).numIn0 = s.numIn0 := rfl
@[simp] theorem State.w1c_numIn1 (s : State) (v : Word) : (s.w1c v).numIn1 = s.numIn1 := rfl
@[simp] theorem State.w1c_numIn2 (s : State) (v : Word) : (s.w1c v).numIn2 = s.numIn2 := rfl
@[simp] theorem State.w1c_numIn3 (s : State) (v : Word) : (s.w1c v).numIn3 = s.numIn3 := rfl
@[simp] theorem State.w1c_numOut0 (s : State) (v : Word) : (s.w1c v).numOut0 = s.numOut0 := rfl
@[simp] theorem State.w1c_numOut1 (s : State) (v : Word) : (s.w1c v).numOut1 = s.numOut1 := rfl
@[simp] theorem State.w1c_numWidth (s : State) (v : Word) : (s.w1c v).numWidth = s.numWidth := rfl
@[simp] theorem State.w1c_key (s : State) (v : Word) : (s.w1c v).key = s.key := rfl
@[simp] theorem State.w1c_ibuf (s : State) (v : Word) : (s.w1c v).ibuf = s.ibuf := rfl
@[simp] theorem State.w1c_obuf (s : State) (v : Word) : (s.w1c v).obuf = s.obuf := rfl
@[simp] theorem State.w1c_rst (s : State) (v : Word) : (s.w1c v).rst = s.rst := rfl
@[simp] theorem State.w1c_memEpoch (s : State) (v : Word) : (s.w1c v).memEpoch = s.memEpoch := rfl
@[simp] theorem State.w1c_obufEpoch (s : State) (v : Word) : (s.w1c v).obufEpoch = s.obufEpoch := rfl
@[simp] theorem State.w1c_draws (s : State) (v : Word) : (s.w1c v).draws = s.draws := rfl
@[simp] theorem State.w1c_engineDelay (s : State) (v : Word) : (s.w1c v).engineDelay = s.engineDelay := rfl
@[simp] theorem State.w1c_hostQueue (s : State) (v : Word) : (s.w1c v).hostQueue = s.hostQueue := rfl
@[simp] theorem State.w1c_hostLog (s : State) (v : Word) : (s.w1c v).hostLog = s.hostLog := rfl

/-! ## `invalidate` -/

@[simp] theorem State.invalidate_params (s : State) : s.invalidate.params = s.params := rfl
@[simp] theorem State.invalidate_irqEn (s : State) : s.invalidate.irqEn = s.irqEn := rfl
@[simp] theorem State.invalidate_status (s : State) : s.invalidate.status = s.status.clearConfig := rfl
@[simp] theorem State.invalidate_errCode (s : State) : s.invalidate.errCode = s.errCode := rfl
@[simp] theorem State.invalidate_cmd (s : State) : s.invalidate.cmd = s.cmd := rfl
@[simp] theorem State.invalidate_engine (s : State) : s.invalidate.engine = s.engine := rfl
@[simp] theorem State.invalidate_rounds (s : State) : s.invalidate.rounds = s.rounds := rfl
@[simp] theorem State.invalidate_nkeys (s : State) : s.invalidate.nkeys = s.nkeys := rfl
@[simp] theorem State.invalidate_keySel (s : State) : s.invalidate.keySel = s.keySel := rfl
@[simp] theorem State.invalidate_keyLen (s : State) : s.invalidate.keyLen = s.keyLen := rfl
@[simp] theorem State.invalidate_ilen (s : State) : s.invalidate.ilen = s.ilen := rfl
@[simp] theorem State.invalidate_olen (s : State) : s.invalidate.olen = s.olen := rfl
@[simp] theorem State.invalidate_arg0 (s : State) : s.invalidate.arg0 = s.arg0 := rfl
@[simp] theorem State.invalidate_arg1 (s : State) : s.invalidate.arg1 = s.arg1 := rfl
@[simp] theorem State.invalidate_numIn0 (s : State) : s.invalidate.numIn0 = s.numIn0 := rfl
@[simp] theorem State.invalidate_numIn1 (s : State) : s.invalidate.numIn1 = s.numIn1 := rfl
@[simp] theorem State.invalidate_numIn2 (s : State) : s.invalidate.numIn2 = s.numIn2 := rfl
@[simp] theorem State.invalidate_numIn3 (s : State) : s.invalidate.numIn3 = s.numIn3 := rfl
@[simp] theorem State.invalidate_numOut0 (s : State) : s.invalidate.numOut0 = s.numOut0 := rfl
@[simp] theorem State.invalidate_numOut1 (s : State) : s.invalidate.numOut1 = s.numOut1 := rfl
@[simp] theorem State.invalidate_numWidth (s : State) : s.invalidate.numWidth = s.numWidth := rfl
@[simp] theorem State.invalidate_key (s : State) : s.invalidate.key = s.key := rfl
@[simp] theorem State.invalidate_ibuf (s : State) : s.invalidate.ibuf = s.ibuf := rfl
@[simp] theorem State.invalidate_obuf (s : State) : s.invalidate.obuf = s.obuf := rfl
@[simp] theorem State.invalidate_rst (s : State) : s.invalidate.rst = s.rst := rfl
@[simp] theorem State.invalidate_memEpoch (s : State) : s.invalidate.memEpoch = s.memEpoch := rfl
@[simp] theorem State.invalidate_obufEpoch (s : State) : s.invalidate.obufEpoch = s.obufEpoch := rfl
@[simp] theorem State.invalidate_draws (s : State) : s.invalidate.draws = s.draws := rfl
@[simp] theorem State.invalidate_engineDelay (s : State) : s.invalidate.engineDelay = s.engineDelay := rfl
@[simp] theorem State.invalidate_hostQueue (s : State) : s.invalidate.hostQueue = s.hostQueue := rfl
@[simp] theorem State.invalidate_hostLog (s : State) : s.invalidate.hostLog = s.hostLog := rfl

/-! ## `overrun` -/

@[simp] theorem State.overrun_params (s : State) : s.overrun.params = s.params := rfl
@[simp] theorem State.overrun_irqEn (s : State) : s.overrun.irqEn = s.irqEn := rfl
@[simp] theorem State.overrun_status (s : State) : s.overrun.status = s.status.overrun := rfl
@[simp] theorem State.overrun_errCode (s : State) : s.overrun.errCode = s.errCode := rfl
@[simp] theorem State.overrun_cmd (s : State) : s.overrun.cmd = s.cmd := rfl
@[simp] theorem State.overrun_engine (s : State) : s.overrun.engine = s.engine := rfl
@[simp] theorem State.overrun_rounds (s : State) : s.overrun.rounds = s.rounds := rfl
@[simp] theorem State.overrun_nkeys (s : State) : s.overrun.nkeys = s.nkeys := rfl
@[simp] theorem State.overrun_keySel (s : State) : s.overrun.keySel = s.keySel := rfl
@[simp] theorem State.overrun_keyLen (s : State) : s.overrun.keyLen = s.keyLen := rfl
@[simp] theorem State.overrun_ilen (s : State) : s.overrun.ilen = s.ilen := rfl
@[simp] theorem State.overrun_olen (s : State) : s.overrun.olen = s.olen := rfl
@[simp] theorem State.overrun_arg0 (s : State) : s.overrun.arg0 = s.arg0 := rfl
@[simp] theorem State.overrun_arg1 (s : State) : s.overrun.arg1 = s.arg1 := rfl
@[simp] theorem State.overrun_numIn0 (s : State) : s.overrun.numIn0 = s.numIn0 := rfl
@[simp] theorem State.overrun_numIn1 (s : State) : s.overrun.numIn1 = s.numIn1 := rfl
@[simp] theorem State.overrun_numIn2 (s : State) : s.overrun.numIn2 = s.numIn2 := rfl
@[simp] theorem State.overrun_numIn3 (s : State) : s.overrun.numIn3 = s.numIn3 := rfl
@[simp] theorem State.overrun_numOut0 (s : State) : s.overrun.numOut0 = s.numOut0 := rfl
@[simp] theorem State.overrun_numOut1 (s : State) : s.overrun.numOut1 = s.numOut1 := rfl
@[simp] theorem State.overrun_numWidth (s : State) : s.overrun.numWidth = s.numWidth := rfl
@[simp] theorem State.overrun_key (s : State) : s.overrun.key = s.key := rfl
@[simp] theorem State.overrun_ibuf (s : State) : s.overrun.ibuf = s.ibuf := rfl
@[simp] theorem State.overrun_obuf (s : State) : s.overrun.obuf = s.obuf := rfl
@[simp] theorem State.overrun_rst (s : State) : s.overrun.rst = s.rst := rfl
@[simp] theorem State.overrun_memEpoch (s : State) : s.overrun.memEpoch = s.memEpoch := rfl
@[simp] theorem State.overrun_obufEpoch (s : State) : s.overrun.obufEpoch = s.obufEpoch := rfl
@[simp] theorem State.overrun_draws (s : State) : s.overrun.draws = s.draws := rfl
@[simp] theorem State.overrun_engineDelay (s : State) : s.overrun.engineDelay = s.engineDelay := rfl
@[simp] theorem State.overrun_hostQueue (s : State) : s.overrun.hostQueue = s.hostQueue := rfl
@[simp] theorem State.overrun_hostLog (s : State) : s.overrun.hostLog = s.hostLog := rfl

/-! ## `draw` -/

@[simp] theorem State.draw_params (s : State) : s.draw.params = s.params := rfl
@[simp] theorem State.draw_irqEn (s : State) : s.draw.irqEn = s.irqEn := rfl
@[simp] theorem State.draw_status (s : State) : s.draw.status = s.status := rfl
@[simp] theorem State.draw_errCode (s : State) : s.draw.errCode = s.errCode := rfl
@[simp] theorem State.draw_cmd (s : State) : s.draw.cmd = s.cmd := rfl
@[simp] theorem State.draw_engine (s : State) : s.draw.engine = s.engine := rfl
@[simp] theorem State.draw_rounds (s : State) : s.draw.rounds = s.rounds := rfl
@[simp] theorem State.draw_nkeys (s : State) : s.draw.nkeys = s.nkeys := rfl
@[simp] theorem State.draw_keySel (s : State) : s.draw.keySel = s.keySel := rfl
@[simp] theorem State.draw_keyLen (s : State) : s.draw.keyLen = s.keyLen := rfl
@[simp] theorem State.draw_ilen (s : State) : s.draw.ilen = s.ilen := rfl
@[simp] theorem State.draw_olen (s : State) : s.draw.olen = s.olen := rfl
@[simp] theorem State.draw_arg0 (s : State) : s.draw.arg0 = s.arg0 := rfl
@[simp] theorem State.draw_arg1 (s : State) : s.draw.arg1 = s.arg1 := rfl
@[simp] theorem State.draw_numIn0 (s : State) : s.draw.numIn0 = s.numIn0 := rfl
@[simp] theorem State.draw_numIn1 (s : State) : s.draw.numIn1 = s.numIn1 := rfl
@[simp] theorem State.draw_numIn2 (s : State) : s.draw.numIn2 = s.numIn2 := rfl
@[simp] theorem State.draw_numIn3 (s : State) : s.draw.numIn3 = s.numIn3 := rfl
@[simp] theorem State.draw_numOut0 (s : State) : s.draw.numOut0 = s.numOut0 := rfl
@[simp] theorem State.draw_numOut1 (s : State) : s.draw.numOut1 = s.numOut1 := rfl
@[simp] theorem State.draw_numWidth (s : State) : s.draw.numWidth = s.numWidth := rfl
@[simp] theorem State.draw_key (s : State) : s.draw.key = s.key := rfl
@[simp] theorem State.draw_ibuf (s : State) : s.draw.ibuf = s.ibuf := rfl
@[simp] theorem State.draw_obuf (s : State) : s.draw.obuf = s.obuf := rfl
@[simp] theorem State.draw_rst (s : State) : s.draw.rst = s.rst := rfl
@[simp] theorem State.draw_memEpoch (s : State) : s.draw.memEpoch = s.memEpoch := rfl
@[simp] theorem State.draw_obufEpoch (s : State) : s.draw.obufEpoch = s.obufEpoch := rfl
@[simp] theorem State.draw_draws (s : State) : s.draw.draws = s.draws + 1 := rfl
@[simp] theorem State.draw_engineDelay (s : State) : s.draw.engineDelay = s.engineDelay := rfl
@[simp] theorem State.draw_hostQueue (s : State) : s.draw.hostQueue = s.hostQueue := rfl
@[simp] theorem State.draw_hostLog (s : State) : s.draw.hostLog = s.hostLog := rfl

/-! ## `reply` -/

@[simp] theorem State.reply_params (s : State) (r : BusReply) : (s.reply r).params = s.params := rfl
@[simp] theorem State.reply_irqEn (s : State) (r : BusReply) : (s.reply r).irqEn = s.irqEn := rfl
@[simp] theorem State.reply_status (s : State) (r : BusReply) : (s.reply r).status = s.status := rfl
@[simp] theorem State.reply_errCode (s : State) (r : BusReply) : (s.reply r).errCode = s.errCode := rfl
@[simp] theorem State.reply_cmd (s : State) (r : BusReply) : (s.reply r).cmd = s.cmd := rfl
@[simp] theorem State.reply_engine (s : State) (r : BusReply) : (s.reply r).engine = s.engine := rfl
@[simp] theorem State.reply_rounds (s : State) (r : BusReply) : (s.reply r).rounds = s.rounds := rfl
@[simp] theorem State.reply_nkeys (s : State) (r : BusReply) : (s.reply r).nkeys = s.nkeys := rfl
@[simp] theorem State.reply_keySel (s : State) (r : BusReply) : (s.reply r).keySel = s.keySel := rfl
@[simp] theorem State.reply_keyLen (s : State) (r : BusReply) : (s.reply r).keyLen = s.keyLen := rfl
@[simp] theorem State.reply_ilen (s : State) (r : BusReply) : (s.reply r).ilen = s.ilen := rfl
@[simp] theorem State.reply_olen (s : State) (r : BusReply) : (s.reply r).olen = s.olen := rfl
@[simp] theorem State.reply_arg0 (s : State) (r : BusReply) : (s.reply r).arg0 = s.arg0 := rfl
@[simp] theorem State.reply_arg1 (s : State) (r : BusReply) : (s.reply r).arg1 = s.arg1 := rfl
@[simp] theorem State.reply_numIn0 (s : State) (r : BusReply) : (s.reply r).numIn0 = s.numIn0 := rfl
@[simp] theorem State.reply_numIn1 (s : State) (r : BusReply) : (s.reply r).numIn1 = s.numIn1 := rfl
@[simp] theorem State.reply_numIn2 (s : State) (r : BusReply) : (s.reply r).numIn2 = s.numIn2 := rfl
@[simp] theorem State.reply_numIn3 (s : State) (r : BusReply) : (s.reply r).numIn3 = s.numIn3 := rfl
@[simp] theorem State.reply_numOut0 (s : State) (r : BusReply) : (s.reply r).numOut0 = s.numOut0 := rfl
@[simp] theorem State.reply_numOut1 (s : State) (r : BusReply) : (s.reply r).numOut1 = s.numOut1 := rfl
@[simp] theorem State.reply_numWidth (s : State) (r : BusReply) : (s.reply r).numWidth = s.numWidth := rfl
@[simp] theorem State.reply_key (s : State) (r : BusReply) : (s.reply r).key = s.key := rfl
@[simp] theorem State.reply_ibuf (s : State) (r : BusReply) : (s.reply r).ibuf = s.ibuf := rfl
@[simp] theorem State.reply_obuf (s : State) (r : BusReply) : (s.reply r).obuf = s.obuf := rfl
@[simp] theorem State.reply_rst (s : State) (r : BusReply) : (s.reply r).rst = s.rst := rfl
@[simp] theorem State.reply_memEpoch (s : State) (r : BusReply) : (s.reply r).memEpoch = s.memEpoch := rfl
@[simp] theorem State.reply_obufEpoch (s : State) (r : BusReply) : (s.reply r).obufEpoch = s.obufEpoch := rfl
@[simp] theorem State.reply_draws (s : State) (r : BusReply) : (s.reply r).draws = s.draws := rfl
@[simp] theorem State.reply_engineDelay (s : State) (r : BusReply) : (s.reply r).engineDelay = s.engineDelay := rfl
@[simp] theorem State.reply_hostQueue (s : State) (r : BusReply) : (s.reply r).hostQueue = s.hostQueue := rfl
@[simp] theorem State.reply_hostLog (s : State) (r : BusReply) : (s.reply r).hostLog = r :: s.hostLog := rfl

/-! ## `issue` -/

@[simp] theorem State.issue_params (s : State) (w : Word) : (s.issue w).params = s.params := rfl
@[simp] theorem State.issue_irqEn (s : State) (w : Word) : (s.issue w).irqEn = s.irqEn := rfl
@[simp] theorem State.issue_status (s : State) (w : Word) : (s.issue w).status = s.status.accept := rfl
@[simp] theorem State.issue_errCode (s : State) (w : Word) : (s.issue w).errCode = 0 := rfl
@[simp] theorem State.issue_cmd (s : State) (w : Word) : (s.issue w).cmd = w := rfl
@[simp] theorem State.issue_engine (s : State) (w : Word) : (s.issue w).engine = s.engine := rfl
@[simp] theorem State.issue_rounds (s : State) (w : Word) : (s.issue w).rounds = s.rounds := rfl
@[simp] theorem State.issue_nkeys (s : State) (w : Word) : (s.issue w).nkeys = s.nkeys := rfl
@[simp] theorem State.issue_keySel (s : State) (w : Word) : (s.issue w).keySel = s.keySel := rfl
@[simp] theorem State.issue_keyLen (s : State) (w : Word) : (s.issue w).keyLen = s.keyLen := rfl
@[simp] theorem State.issue_ilen (s : State) (w : Word) : (s.issue w).ilen = s.ilen := rfl
@[simp] theorem State.issue_olen (s : State) (w : Word) : (s.issue w).olen = s.olen := rfl
@[simp] theorem State.issue_arg0 (s : State) (w : Word) : (s.issue w).arg0 = s.arg0 := rfl
@[simp] theorem State.issue_arg1 (s : State) (w : Word) : (s.issue w).arg1 = s.arg1 := rfl
@[simp] theorem State.issue_numIn0 (s : State) (w : Word) : (s.issue w).numIn0 = s.numIn0 := rfl
@[simp] theorem State.issue_numIn1 (s : State) (w : Word) : (s.issue w).numIn1 = s.numIn1 := rfl
@[simp] theorem State.issue_numIn2 (s : State) (w : Word) : (s.issue w).numIn2 = s.numIn2 := rfl
@[simp] theorem State.issue_numIn3 (s : State) (w : Word) : (s.issue w).numIn3 = s.numIn3 := rfl
@[simp] theorem State.issue_numOut0 (s : State) (w : Word) : (s.issue w).numOut0 = s.numOut0 := rfl
@[simp] theorem State.issue_numOut1 (s : State) (w : Word) : (s.issue w).numOut1 = s.numOut1 := rfl
@[simp] theorem State.issue_numWidth (s : State) (w : Word) : (s.issue w).numWidth = s.numWidth := rfl
@[simp] theorem State.issue_key (s : State) (w : Word) : (s.issue w).key = s.key := rfl
@[simp] theorem State.issue_ibuf (s : State) (w : Word) : (s.issue w).ibuf = s.ibuf := rfl
@[simp] theorem State.issue_obuf (s : State) (w : Word) : (s.issue w).obuf = s.obuf := rfl
@[simp] theorem State.issue_rst (s : State) (w : Word) : (s.issue w).rst = s.rst := rfl
@[simp] theorem State.issue_memEpoch (s : State) (w : Word) : (s.issue w).memEpoch = s.memEpoch := rfl
@[simp] theorem State.issue_obufEpoch (s : State) (w : Word) : (s.issue w).obufEpoch = s.obufEpoch := rfl
@[simp] theorem State.issue_draws (s : State) (w : Word) : (s.issue w).draws = s.draws + 1 := rfl
@[simp] theorem State.issue_engineDelay (s : State) (w : Word) : (s.issue w).engineDelay = Config.freeLatency s.draws := rfl
@[simp] theorem State.issue_hostQueue (s : State) (w : Word) : (s.issue w).hostQueue = s.hostQueue := rfl
@[simp] theorem State.issue_hostLog (s : State) (w : Word) : (s.issue w).hostLog = s.hostLog := rfl

/-! ## `hwReset` -/

@[simp] theorem State.hwReset_params (s : State) : s.hwReset.params = s.params := rfl
@[simp] theorem State.hwReset_irqEn (s : State) : s.hwReset.irqEn = false := rfl
@[simp] theorem State.hwReset_status (s : State) : s.hwReset.status = .reset := rfl
@[simp] theorem State.hwReset_errCode (s : State) : s.hwReset.errCode = 0 := rfl
@[simp] theorem State.hwReset_cmd (s : State) : s.hwReset.cmd = 0 := rfl
@[simp] theorem State.hwReset_engine (s : State) : s.hwReset.engine = 0xFF := rfl
@[simp] theorem State.hwReset_rounds (s : State) : s.hwReset.rounds = 0 := rfl
@[simp] theorem State.hwReset_nkeys (s : State) : s.hwReset.nkeys = 0 := rfl
@[simp] theorem State.hwReset_keySel (s : State) : s.hwReset.keySel = 0 := rfl
@[simp] theorem State.hwReset_keyLen (s : State) : s.hwReset.keyLen = List.replicate s.params.nkeysMax 0 := rfl
@[simp] theorem State.hwReset_ilen (s : State) : s.hwReset.ilen = 0 := rfl
@[simp] theorem State.hwReset_olen (s : State) : s.hwReset.olen = 0 := rfl
@[simp] theorem State.hwReset_arg0 (s : State) : s.hwReset.arg0 = 0 := rfl
@[simp] theorem State.hwReset_arg1 (s : State) : s.hwReset.arg1 = 0 := rfl
@[simp] theorem State.hwReset_numIn0 (s : State) : s.hwReset.numIn0 = 0 := rfl
@[simp] theorem State.hwReset_numIn1 (s : State) : s.hwReset.numIn1 = 0 := rfl
@[simp] theorem State.hwReset_numIn2 (s : State) : s.hwReset.numIn2 = 0 := rfl
@[simp] theorem State.hwReset_numIn3 (s : State) : s.hwReset.numIn3 = 0 := rfl
@[simp] theorem State.hwReset_numOut0 (s : State) : s.hwReset.numOut0 = 0 := rfl
@[simp] theorem State.hwReset_numOut1 (s : State) : s.hwReset.numOut1 = 0 := rfl
@[simp] theorem State.hwReset_numWidth (s : State) : s.hwReset.numWidth = 0 := rfl
@[simp] theorem State.hwReset_key (s : State) : s.hwReset.key = [] := rfl
@[simp] theorem State.hwReset_ibuf (s : State) : s.hwReset.ibuf = [] := rfl
@[simp] theorem State.hwReset_obuf (s : State) : s.hwReset.obuf = [] := rfl
@[simp] theorem State.hwReset_rst (s : State) : s.hwReset.rst = s.rst := rfl
@[simp] theorem State.hwReset_memEpoch (s : State) : s.hwReset.memEpoch = s.draws := rfl
@[simp] theorem State.hwReset_obufEpoch (s : State) : s.hwReset.obufEpoch = s.draws := rfl
@[simp] theorem State.hwReset_draws (s : State) : s.hwReset.draws = s.draws + 1 := rfl
@[simp] theorem State.hwReset_engineDelay (s : State) : s.hwReset.engineDelay = 0 := rfl
@[simp] theorem State.hwReset_hostQueue (s : State) : s.hwReset.hostQueue = s.hostQueue := rfl
@[simp] theorem State.hwReset_hostLog (s : State) : s.hwReset.hostLog = s.hostLog := rfl

end Sys2Proof.Machine
end

