-- ==== Sys2Proof/Laws/Memory.lean ====
section
/-! SUPPORT. The memory laws: read after write, other places untouched, the canonical form kept, at bytes, at words
and for a written vector. -/

namespace Sys2Proof.Machine

namespace Memory

@[simp] theorem readByte_nil (a : Nat) : readByte [] a = none := rfl

theorem readByte_writeByte_same (m : Memory) (a : Nat) (b : Byte) : (m.writeByte a b).readByte a = some b := by
  induction m with
  | nil => simp [writeByte, readByte]
  | cons c m ih =>
    unfold writeByte
    split
    · simp [readByte]
    · split
      · simp [readByte]
      · rename_i h
        simp [readByte, Ne.symm h, ih]

theorem readByte_writeByte_other (m : Memory) (a x : Nat) (b : Byte) (h : x ≠ a) :
    (m.writeByte a b).readByte x = m.readByte x := by
  induction m with
  | nil => simp [writeByte, readByte, Ne.symm h]
  | cons c m ih =>
    unfold writeByte
    split
    · simp [readByte, Ne.symm h]
    · split
      · rename_i h'
        subst h'
        simp [readByte, Ne.symm h]
      · simp [readByte, ih]

/-- Reading one byte after writing one. -/
theorem readByte_writeByte (m : Memory) (a x : Nat) (b : Byte) :
    (m.writeByte a b).readByte x = if x = a then some b else m.readByte x := by
  split
  · subst x; exact readByte_writeByte_same m a b
  · exact readByte_writeByte_other m a x b ‹_›

theorem mem_writeByte {m : Memory} {a : Nat} {b : Byte} {c : Host.Cell} (h : c ∈ m.writeByte a b) :
    c = (a, b) ∨ c ∈ m := by
  induction m with
  | nil => simpa [writeByte] using h
  | cons d m ih =>
    unfold writeByte at h
    split at h
    · simpa using h
    · split at h
      · simp only [List.mem_cons] at h ⊢
        tauto
      · simp only [List.mem_cons] at h ⊢
        rcases h with h | h
        · exact .inr (.inl h)
        · rcases ih h with h | h
          · exact .inl h
          · exact .inr (.inr h)

/-- A byte write keeps the canonical form. -/
theorem wf_writeByte {m : Memory} (h : m.wf) (a : Nat) (b : Byte) : (m.writeByte a b).wf := by
  induction m with
  | nil => simp [writeByte, wf]
  | cons c m ih =>
    have hc := List.pairwise_cons.mp h
    unfold writeByte
    split
    · rename_i hlt
      refine List.pairwise_cons.mpr ⟨fun d hd => ?_, h⟩
      rcases List.mem_cons.mp hd with rfl | hd
      · exact hlt
      · exact lt_trans hlt (hc.1 d hd)
    · split
      · rename_i _ heq
        subst heq
        exact List.pairwise_cons.mpr ⟨hc.1, hc.2⟩
      · rename_i h1 h2
        refine List.pairwise_cons.mpr ⟨fun d hd => ?_, ih hc.2⟩
        rcases mem_writeByte hd with rfl | hd
        · show c.1 < a
          omega
        · exact hc.1 d hd

/-- Reading one byte after writing a word. -/
theorem readByte_writeWord (m : Memory) (a x : Nat) (w : Word) :
    (m.writeWord a w).readByte x =
      if x = a + 3 then some (w.extractLsb' 24 8) else if x = a + 2 then some (w.extractLsb' 16 8)
      else if x = a + 1 then some (w.extractLsb' 8 8) else if x = a then some (w.extractLsb' 0 8)
      else m.readByte x := by
  simp only [writeWord, readByte_writeByte]

theorem wf_writeWord {m : Memory} (h : m.wf) (a : Nat) (w : Word) : (m.writeWord a w).wf :=
  wf_writeByte (wf_writeByte (wf_writeByte (wf_writeByte h _ _) _ _) _ _) _ _

theorem mem_writeWord {m : Memory} {a : Nat} {w : Word} {c : Host.Cell} (h : c ∈ m.writeWord a w) :
    (a ≤ c.1 ∧ c.1 < a + 4) ∨ c ∈ m := by
  rcases mem_writeByte h with rfl | h
  · left; simp
  rcases mem_writeByte h with rfl | h
  · left; simp
  rcases mem_writeByte h with rfl | h
  · left; simp
  rcases mem_writeByte h with rfl | h
  · left; simp
  exact .inr h

theorem word_of_lanes (w : Word) :
    w.extractLsb' 24 8 ++ w.extractLsb' 16 8 ++ w.extractLsb' 8 8 ++ w.extractLsb' 0 8 = w := by
  apply BitVec.eq_of_getLsbD_eq
  intro i hi
  simp only [BitVec.getLsbD_append, BitVec.getLsbD_extractLsb']
  rcases Nat.lt_or_ge i 8 with h | h
  · simp [h]
  · rcases Nat.lt_or_ge i 16 with h' | h'
    · simp [show ¬ i < 8 by omega, show i - 8 < 8 by omega, show 8 + (i - 8) = i by omega]
    · rcases Nat.lt_or_ge i 24 with h'' | h''
      · simp [show ¬ i < 8 by omega, show ¬ i - 8 < 8 by omega, show i - 8 - 8 < 8 by omega,
          show 16 + (i - 8 - 8) = i by omega]
      · simp [show ¬ i < 8 by omega, show ¬ i - 8 < 8 by omega, show ¬ i - 8 - 8 < 8 by omega,
          show i - 8 - 8 - 8 < 8 by omega, show 24 + (i - 8 - 8 - 8) = i by omega]

/-- Read after write of the same word. -/
@[simp] theorem readWord_writeWord_same (m : Memory) (unl : Nat → Byte) (a : Nat) (w : Word) :
    (m.writeWord a w).readWord unl a = w := by
  simp only [readWord, readByte_writeWord]
  simpa using word_of_lanes w

/-- A word write leaves every byte outside it alone. -/
theorem readByte_writeWord_other (m : Memory) (a x : Nat) (w : Word) (h : x < a ∨ a + 4 ≤ x) :
    (m.writeWord a w).readByte x = m.readByte x := by
  rw [readByte_writeWord, if_neg (by omega), if_neg (by omega), if_neg (by omega), if_neg (by omega)]

/-- A word write leaves every word that shares no byte with it alone. -/
theorem readWord_writeWord_other (m : Memory) (unl : Nat → Byte) (a x : Nat) (w : Word)
    (h : x + 4 ≤ a ∨ a + 4 ≤ x) : (m.writeWord a w).readWord unl x = m.readWord unl x := by
  unfold readWord
  rw [readByte_writeWord_other m a (x + 3) w (by omega), readByte_writeWord_other m a (x + 2) w (by omega),
    readByte_writeWord_other m a (x + 1) w (by omega), readByte_writeWord_other m a x w (by omega)]

theorem wf_writeUnits {m : Memory} (h : m.wf) (a : Nat) (v : Units) : (m.writeUnits a v).wf := by
  induction v generalizing m a with
  | nil => exact h
  | cons x v ih => exact ih (wf_writeWord h a _) _

theorem mem_writeUnits {m : Memory} {a : Nat} {v : Units} {c : Host.Cell} (h : c ∈ m.writeUnits a v) :
    (a ≤ c.1 ∧ c.1 < a + 4 * v.length) ∨ c ∈ m := by
  induction v generalizing m a with
  | nil => exact .inr h
  | cons x v ih =>
    rcases ih h with h | h
    · left; simp only [List.length_cons]; omega
    · rcases mem_writeWord h with h | h
      · left; simp only [List.length_cons]; omega
      · exact .inr h

theorem readWord_writeUnits_below (m : Memory) (unl : Nat → Byte) (a x : Nat) (v : Units) (h : x + 4 ≤ a) :
    (m.writeUnits a v).readWord unl x = m.readWord unl x := by
  induction v generalizing m a with
  | nil => rfl
  | cons y v ih =>
    exact (ih (m.writeWord a (BitVec.ofNat 32 y)) (a + 4) (by omega)).trans
      (readWord_writeWord_other m unl a x _ (.inl h))

theorem readWord_writeUnits_above (m : Memory) (unl : Nat → Byte) (a x : Nat) (v : Units) (h : a + 4 * v.length ≤ x) :
    (m.writeUnits a v).readWord unl x = m.readWord unl x := by
  induction v generalizing m a with
  | nil => rfl
  | cons y v ih =>
    simp only [List.length_cons] at h
    exact (ih (m.writeWord a (BitVec.ofNat 32 y)) (a + 4) (by omega)).trans
      (readWord_writeWord_other m unl a x _ (.inr (by omega)))

/-- Word j of a written vector is its element j, zero-extended (spec R56). -/
theorem readWord_writeUnits (m : Memory) (unl : Nat → Byte) (a : Nat) (v : Units) (j : Nat) (h : j < v.length) :
    (m.writeUnits a v).readWord unl (a + 4 * j) = BitVec.ofNat 32 v[j] := by
  induction v generalizing m a j with
  | nil => simp at h
  | cons x v ih =>
    cases j with
    | zero =>
      exact (readWord_writeUnits_below (m.writeWord a (BitVec.ofNat 32 x)) unl (a + 4) a v (by omega)).trans
        (readWord_writeWord_same m unl a _)
    | succ j =>
      have := ih (m.writeWord a (BitVec.ofNat 32 x)) (a + 4) j (by simpa using h)
      simpa [writeUnits, show a + 4 + 4 * j = a + 4 * (j + 1) by omega] using this

end Memory

/-- OBUF after OUT_WRITE(v): word j is element j of v, zero-extended (spec R42, R85). -/
theorem State.outWrite_obufWord (s : State) (v : Units) (j : Nat) (h : j < v.length) :
    (s.outWrite v).obufWord j = BitVec.ofNat 32 v[j] := by
  have := Memory.readWord_writeUnits [] ((s.outWrite v).unwritten .obuf) 0 v j h
  simpa [State.obufWord] using this

/-- The words from |v| on are free ones of the write's draw (U3). -/
theorem State.outWrite_obufWord_beyond (s : State) (v : Units) (j : Nat) (h : v.length ≤ j) :
    (s.outWrite v).obufWord j = Memory.readWord [] (Config.freeByte .obuf s.draws) (4 * j) :=
  Memory.readWord_writeUnits_above [] _ 0 (4 * j) v (by omega)

end Sys2Proof.Machine
end

