-- ==== Sys2Proof/Laws/Results.lean ====
section
/-! SUPPORT. What a chain of checks answers, and what the completion of each command class does with a result. -/

namespace Sys2Proof.Machine

/-! ## Checks in sequence -/

theorem bind_ok {α β : Type} (a : α) (f : α → Except ErrCode β) : (Except.ok a >>= f) = f a := rfl

theorem bind_error {α β : Type} (e : ErrCode) (f : α → Except ErrCode β) :
    ((Except.error e : Except ErrCode α) >>= f) = .error e := rfl

theorem bind_eq_ok {α β : Type} {x : Except ErrCode α} {f : α → Except ErrCode β} {b : β} :
    (x >>= f) = .ok b ↔ ∃ a, x = .ok a ∧ f a = .ok b := by
  cases x with
  | error e => simp [bind_error]
  | ok a => simp [bind_ok]

theorem bind_eq_error {α β : Type} {x : Except ErrCode α} {f : α → Except ErrCode β} {e : ErrCode} :
    (x >>= f) = .error e ↔ x = .error e ∨ ∃ a, x = .ok a ∧ f a = .error e := by
  cases x with
  | error e' => simp [bind_error]
  | ok a => simp [bind_ok]

theorem map_ok {α β : Type} (a : α) (f : α → β) : (Except.ok a : Except ErrCode α).map f = .ok (f a) := rfl

theorem map_error {α β : Type} (e : ErrCode) (f : α → β) : (Except.error e : Except ErrCode α).map f = .error e := rfl

theorem map_eq_ok {α β : Type} {x : Except ErrCode α} {f : α → β} {b : β} :
    x.map f = .ok b ↔ ∃ a, x = .ok a ∧ f a = b := by
  cases x with
  | error e => simp [map_error]
  | ok a => simp [map_ok]

theorem map_eq_error {α β : Type} {x : Except ErrCode α} {f : α → β} {e : ErrCode} :
    x.map f = .error e ↔ x = .error e := by
  cases x with
  | error e => simp [map_error]
  | ok a => simp [map_ok]

/-! ## Completion (spec R46, R173) -/

theorem State.complete_eq (s : State) : s.complete = s.afterDone := rfl

theorem State.raise_output (s : State) (e : ErrCode) : s.raise .output e = s.afterOutputError e := rfl

theorem State.raise_number (s : State) (e : ErrCode) : s.raise .number e = s.afterNumberError e := rfl

theorem State.raise_configure (s : State) (e : ErrCode) : s.raise .configure e = s.afterConfigError e := rfl

theorem State.outWrite_complete (s : State) (v : Units) : (s.outWrite v).complete = s.afterOutput v := rfl

theorem State.numWrite_complete (s : State) (y w : Nat) : (s.numWrite y w).complete = s.afterNumber y w := rfl

/-- A result that fits OBUF is written (spec R85). -/
theorem State.finishOutput_ok {s : State} {v : Units} (h : v.length ≤ s.params.obufDepth) :
    s.finishOutput (.ok v) = .next (s.afterOutput v) := by
  simp only [finishOutput, if_neg (Nat.not_lt.mpr h), outWrite_complete]

/-- A result that does not fit ends with 0xE2 (spec R85). -/
theorem State.finishOutput_full {s : State} {v : Units} (h : s.params.obufDepth < v.length) :
    s.finishOutput (.ok v) = .next (s.afterOutputError .capacityOut) := by
  simp only [finishOutput, if_pos h, raise_output]

theorem State.finishOutput_error (s : State) (e : ErrCode) :
    s.finishOutput (.error e) = .next (s.afterOutputError e) := rfl

theorem State.finishNumber_ok (s : State) (y w : Nat) : s.finishNumber (.ok (y, w)) = .next (s.afterNumber y w) := rfl

theorem State.finishNumber_error (s : State) (e : ErrCode) :
    s.finishNumber (.error e) = .next (s.afterNumberError e) := rfl

theorem State.finishConfigure_ok (s : State) (v : Variant) :
    s.finishConfigure v (.ok ()) = .next (s.afterLatch v) := rfl

theorem State.finishConfigure_error (s : State) (v : Variant) (e : ErrCode) :
    s.finishConfigure v (.error e) = .next (s.afterConfigError e) := rfl

/-- Everything the completion of an output command can do. -/
theorem State.finishOutput_cases (s : State) (r : Except ErrCode Units) :
    (∃ v, r = .ok v ∧ v.length ≤ s.params.obufDepth ∧ s.finishOutput r = .next (s.afterOutput v)) ∨
    (∃ v, r = .ok v ∧ s.params.obufDepth < v.length ∧
      s.finishOutput r = .next (s.afterOutputError .capacityOut)) ∨
    (∃ e, r = .error e ∧ s.finishOutput r = .next (s.afterOutputError e)) := by
  cases r with
  | error e => exact .inr (.inr ⟨e, rfl, rfl⟩)
  | ok v =>
    rcases Nat.lt_or_ge s.params.obufDepth v.length with h | h
    · exact .inr (.inl ⟨v, rfl, h, finishOutput_full h⟩)
    · exact .inl ⟨v, rfl, h, finishOutput_ok h⟩

/-- Everything the completion of a number command can do. -/
theorem State.finishNumber_cases (s : State) (r : Except ErrCode (Nat × Nat)) :
    (∃ y w, r = .ok (y, w) ∧ s.finishNumber r = .next (s.afterNumber y w)) ∨
    (∃ e, r = .error e ∧ s.finishNumber r = .next (s.afterNumberError e)) := by
  rcases r with e | ⟨y, w⟩
  · exact .inr ⟨e, rfl, rfl⟩
  · exact .inl ⟨y, w, rfl, rfl⟩

/-- Everything the completion of CONFIGURE can do. -/
theorem State.finishConfigure_cases (s : State) (v : Variant) (r : Except ErrCode Unit) :
    (r = .ok () ∧ s.finishConfigure v r = .next (s.afterLatch v)) ∨
    (∃ e, r = .error e ∧ s.finishConfigure v r = .next (s.afterConfigError e)) := by
  rcases r with e | ⟨⟩
  · exact .inr ⟨e, rfl, rfl⟩
  · exact .inl ⟨rfl, rfl⟩

end Sys2Proof.Machine
end

