-- ==== Sys2Proof/Laws/Exec.lean ====
section
/-! SUPPORT. What a command can do, said once: which completion each takes, and the states it can answer. -/

namespace Sys2Proof.Machine

/-- The result EXEC computes for an output command. -/
def outputResult (s : State) : Instr → Except ErrCode Units
  | .extract m => s.extractResult m
  | .add m => s.addResult m
  | .xor m => s.xorResult m
  | .pad => s.cpIn.map padUnits
  | .unpad => s.cpIn.map unpadUnits
  | .digest f => s.digestResult Config.digest f
  | .round m => s.roundResult Config.digest m
  | .b256Enc => s.bytesIn.map (b256EncUnits s.params.b256)
  | .b256Dec => s.inVec >>= b256DecUnits s.params.b256
  | .balEnc => s.balEncResult Config.digest
  | .balDec => s.balDecResult Config.digest
  | .mkEnc => s.mkEncResult Config.digest
  | .mkDec => s.mkDecResult Config.digest
  | .fpeEnc f => s.fpeEncResult Config.digest f
  | .fpeDec f => s.fpeDecResult Config.digest f
  | .fpeEncStr f => s.fpeEncStrResult Config.digest f
  | .fpeDecStr f => s.fpeDecStrResult Config.digest f
  | .nop | .configureBal | .configureMk | .configureFpe | .numEnc _ | .numDec _ => .ok []

/-- An output command is the completion of its result. -/
theorem exec_output {i : Instr} (h : commandClass i = some .output) (s : State) :
    exec i s = s.finishOutput (outputResult s i) := by
  cases i <;> first | rfl | simp [commandClass] at h

/-- The result of a number command. -/
def numberResult (s : State) : Instr → Except ErrCode (Nat × Nat)
  | .numEnc w => s.numResult w (s.fpeEncrypt Config.digest)
  | .numDec w => s.numResult w (s.fpeDecrypt Config.digest)
  | _ => .ok (0, 0)

/-- A number command is the completion of its result. -/
theorem exec_number {i : Instr} (h : commandClass i = some .number) (s : State) :
    exec i s = s.finishNumber (numberResult s i) := by
  cases i <;> first | rfl | simp [commandClass] at h

/-- CONFIGURE is the completion of its variant's checks. -/
theorem exec_configure {i : Instr} (h : commandClass i = some .configure) (s : State) :
    ∃ v, (i = .configureBal ∧ v = .bal ∨ i = .configureMk ∧ v = .mk ∨ i = .configureFpe ∧ v = .fpe) ∧
      exec i s = s.finishConfigure v (s.checkConfig v) := by
  cases i <;> first
    | exact ⟨.bal, .inl ⟨rfl, rfl⟩, rfl⟩
    | exact ⟨.mk, .inr (.inl ⟨rfl, rfl⟩), rfl⟩
    | exact ⟨.fpe, .inr (.inr ⟨rfl, rfl⟩), rfl⟩
    | simp [commandClass] at h

theorem widthBytes_cases (w : Width) (x : Nat) : widthBytes w x = 2 ∨ widthBytes w x = 4 ∨ widthBytes w x = 8 := by
  cases w with
  | auto => simp only [widthBytes]; split_ifs <;> simp
  | two => exact .inl rfl
  | four => exact .inr (.inl rfl)
  | eight => exact .inr (.inr rfl)

theorem State.require_ok {s : State} {v : Variant} (h : s.latched v) : s.require v = .ok () := if_pos h

theorem State.require_error {s : State} {v : Variant} (h : ¬ s.latched v) : s.require v = .error .notConfigured :=
  if_neg h

theorem State.require_cases (s : State) (v : Variant) :
    (s.latched v ∧ s.require v = .ok ()) ∨ (¬ s.latched v ∧ s.require v = .error .notConfigured) := by
  by_cases h : s.latched v
  · exact .inl ⟨h, require_ok h⟩
  · exact .inr ⟨h, require_error h⟩

/-- A number command's result carries a width of 2, 4 or 8 bytes. -/
theorem State.numResult_width {s : State} {w : Width} {core : Units → Except ErrCode Units} {y n : Nat}
    (h : s.numResult w core = .ok (y, n)) : n = 2 ∨ n = 4 ∨ n = 8 := by
  obtain ⟨-, -, h⟩ := bind_eq_ok.mp h
  obtain ⟨⟨x, wd⟩, ho, h⟩ := bind_eq_ok.mp h
  have hn : n = wd := by
    dsimp only at h
    split_ifs at h
    · cases h; rfl
    · obtain ⟨b, -, hb⟩ := map_eq_ok.mp h
      cases hb; rfl
  have hw : wd = widthBytes w s.numIn := by
    unfold numOperand at ho
    split_ifs at ho
    cases ho; rfl
  rw [hn, hw]
  exact widthBytes_cases w _

/-- Everything a command can do: it completes, and its class says how (spec R46, R174). -/
theorem exec_cases (i : Instr) (s : State) :
    (i = .nop ∧ exec i s = .next s.afterDone) ∨
    (commandClass i = some .output ∧
      ((∃ v, outputResult s i = .ok v ∧ v.length ≤ s.params.obufDepth ∧ exec i s = .next (s.afterOutput v)) ∨
        (∃ e, exec i s = .next (s.afterOutputError e)))) ∨
    (commandClass i = some .number ∧
      ((∃ y w, (w = 2 ∨ w = 4 ∨ w = 8) ∧ exec i s = .next (s.afterNumber y w)) ∨
        (∃ e, exec i s = .next (s.afterNumberError e)))) ∨
    (commandClass i = some .configure ∧
      ((∃ v, (i = .configureBal ∧ v = .bal ∨ i = .configureMk ∧ v = .mk ∨ i = .configureFpe ∧ v = .fpe) ∧
          s.checkConfig v = .ok () ∧ exec i s = .next (s.afterLatch v)) ∨
        (∃ e, exec i s = .next (s.afterConfigError e)))) := by
  rcases hc : commandClass i with _ | c
  · cases i <;> first | exact .inl ⟨rfl, rfl⟩ | simp [commandClass] at hc
  cases c with
  | output =>
    refine .inr (.inl ⟨rfl, ?_⟩)
    rw [exec_output hc]
    rcases s.finishOutput_cases (outputResult s i) with ⟨v, hr, hv, h⟩ | ⟨v, -, -, h⟩ | ⟨e, -, h⟩
    · exact .inl ⟨v, hr, hv, h⟩
    · exact .inr ⟨_, h⟩
    · exact .inr ⟨_, h⟩
  | number =>
    refine .inr (.inr (.inl ⟨rfl, ?_⟩))
    rw [exec_number hc]
    rcases s.finishNumber_cases (numberResult s i) with ⟨y, w, hr, h⟩ | ⟨e, -, h⟩
    · refine .inl ⟨y, w, ?_, h⟩
      cases i <;> first | exact State.numResult_width hr | simp [commandClass] at hc
    · exact .inr ⟨_, h⟩
  | configure =>
    refine .inr (.inr (.inr ⟨rfl, ?_⟩))
    obtain ⟨v, hv, he⟩ := exec_configure hc s
    rw [he]
    rcases s.finishConfigure_cases v (s.checkConfig v) with ⟨hr, h⟩ | ⟨e, -, h⟩
    · exact .inl ⟨v, hv, hr, h⟩
    · exact .inr ⟨_, h⟩
  | illegal => cases i <;> simp [commandClass] at hc

/-- A command always completes: EXEC never stops. -/
theorem exec_next (i : Instr) (s : State) : ∃ t, exec i s = .next t := by
  rcases exec_cases i s with ⟨-, h⟩ | ⟨-, ⟨_, -, -, h⟩ | ⟨_, h⟩⟩ | ⟨-, ⟨_, _, -, h⟩ | ⟨_, h⟩⟩ | ⟨-, ⟨_, -, -, h⟩ | ⟨_, h⟩⟩ <;>
    exact ⟨_, h⟩

/-- The states a command can lead to. -/
theorem exec_inv {i : Instr} {s t : State} (h : exec i s = .next t) :
    (i = .nop ∧ t = s.afterDone) ∨
    (commandClass i = some .output ∧
      ((∃ v, outputResult s i = .ok v ∧ v.length ≤ s.params.obufDepth ∧ t = s.afterOutput v) ∨
        (∃ e, t = s.afterOutputError e))) ∨
    (commandClass i = some .number ∧
      ((∃ y w, (w = 2 ∨ w = 4 ∨ w = 8) ∧ t = s.afterNumber y w) ∨ (∃ e, t = s.afterNumberError e))) ∨
    (commandClass i = some .configure ∧
      ((∃ v, (i = .configureBal ∧ v = .bal ∨ i = .configureMk ∧ v = .mk ∨ i = .configureFpe ∧ v = .fpe) ∧
          s.checkConfig v = .ok () ∧ t = s.afterLatch v) ∨
        (∃ e, t = s.afterConfigError e))) := by
  have key : ∀ {u}, exec i s = .next u → t = u := fun hu => by rw [hu] at h; cases h; rfl
  rcases exec_cases i s with ⟨a, h⟩ | ⟨a, ⟨v, hr, hv, h⟩ | ⟨e, h⟩⟩ | ⟨a, ⟨y, w, hw, h⟩ | ⟨e, h⟩⟩ |
    ⟨a, ⟨v, hv, hr, h⟩ | ⟨e, h⟩⟩
  · exact .inl ⟨a, key h⟩
  · exact .inr (.inl ⟨a, .inl ⟨v, hr, hv, key h⟩⟩)
  · exact .inr (.inl ⟨a, .inr ⟨e, key h⟩⟩)
  · exact .inr (.inr (.inl ⟨a, .inl ⟨y, w, hw, key h⟩⟩))
  · exact .inr (.inr (.inl ⟨a, .inr ⟨e, key h⟩⟩))
  · exact .inr (.inr (.inr ⟨a, .inl ⟨v, hv, hr, key h⟩⟩))
  · exact .inr (.inr (.inr ⟨a, .inr ⟨e, key h⟩⟩))

end Sys2Proof.Machine
end

