-- ==== Sys2Proof/Laws/Bus.lean ====
section
/-! SUPPORT. What an access reaches, and everything an event of the outside world can do. -/

namespace Sys2Proof.Machine

/-! ## What an offset reaches (spec R21, R40 to R43) -/

/-- A register's offset reaches the register. -/
@[simp] theorem State.target_offset (s : State) (r : Reg) : s.target r.offset = .reg r := by
  cases r <;> rfl

theorem regMap_none {off : Nat} (h : 0x060 ≤ off) : regMap.lookup off = none := by
  simp only [regMap, List.cons_append, List.nil_append, List.lookup_cons, List.lookup_nil]
  repeat rw [show (off == _) = false from beq_false_of_ne (by omega)]

/-- A register is reached only at its own offset. -/
theorem State.target_eq_reg {s : State} {off : Nat} {r : Reg} (h : s.target off = .reg r) : off = r.offset := by
  have hm : ∀ e ∈ regMap, e.1 = e.2.offset := by decide
  unfold State.target at h
  split at h
  · rename_i r' hr
    cases h
    obtain ⟨l₁, l₂, hl, -⟩ := List.lookup_eq_some_iff.mp hr
    exact hm (off, r) (by rw [hl]; simp)
  · split_ifs at h

/-- The offsets of the KEYWIN words. -/
theorem State.target_key {s : State} {j : Nat} (hj : j < s.params.keyDepth) (hw : j < 1024)
    (hk : s.keySel.toNat < s.params.nkeysMax) : s.target (0x1000 + 4 * j) = .key s.keySel.toNat j := by
  have e : (0x1000 + 4 * j - 0x1000) / 4 = j := by omega
  unfold State.target
  rw [regMap_none (by omega)]
  simp only
  rw [if_pos (by omega), e, if_pos ⟨hj, hk⟩]

/-- The offsets of the IBUF words. -/
theorem State.target_ibuf {s : State} {j : Nat} (hj : j < s.params.ibufDepth) (hw : j < 4096) :
    s.target (0x4000 + 4 * j) = .ibuf j := by
  have e : (0x4000 + 4 * j - 0x4000) / 4 = j := by omega
  unfold State.target
  rw [regMap_none (by omega)]
  simp only
  rw [if_neg (by omega), if_pos (by omega), e, if_pos hj]

/-- The offsets of the OBUF words. -/
theorem State.target_obuf {s : State} {j : Nat} (hj : j < s.params.obufDepth) (hw : j < 8192) :
    s.target (0x8000 + 4 * j) = .obuf j := by
  have e : (0x8000 + 4 * j - 0x8000) / 4 = j := by omega
  unfold State.target
  rw [regMap_none (by omega)]
  simp only
  rw [if_neg (by omega), if_neg (by omega), if_pos (by omega), e, if_pos hj]

/-- Everything an offset at or above 0x060 can reach. -/
theorem State.target_cases (s : State) {off : Nat} (h : 0x060 ≤ off) :
    (∃ j, off / 4 = 0x400 + j ∧ j < 1024 ∧ j < s.params.keyDepth ∧ s.keySel.toNat < s.params.nkeysMax ∧
      s.target off = .key s.keySel.toNat j) ∨
    (∃ j, off / 4 = 0x1000 + j ∧ j < 4096 ∧ j < s.params.ibufDepth ∧ s.target off = .ibuf j) ∨
    (∃ j, off / 4 = 0x2000 + j ∧ j < 8192 ∧ j < s.params.obufDepth ∧ s.target off = .obuf j) ∨
    s.target off = .reserved := by
  unfold State.target
  rw [regMap_none h]
  simp only
  split_ifs with h1 h2 h3 h4 h5 h6
  · exact .inl ⟨(off - 0x1000) / 4, by omega, by omega, h2.1, h2.2, rfl⟩
  · simp
  · exact .inr (.inl ⟨(off - 0x4000) / 4, by omega, by omega, h4, rfl⟩)
  · simp
  · exact .inr (.inr (.inl ⟨(off - 0x8000) / 4, by omega, by omega, h6, rfl⟩))
  · simp
  · simp

/-- A key word is reached only in a slot and at an index that exist. -/
theorem State.target_eq_key {s : State} {off k j : Nat} (h : s.target off = .key k j) :
    k = s.keySel.toNat ∧ k < s.params.nkeysMax ∧ j < s.params.keyDepth ∧ j < 1024 := by
  unfold State.target at h
  split at h
  · cases h
  · split_ifs at h
    cases h
    exact ⟨rfl, ‹_ ∧ _›.2, ‹_ ∧ s.keySel.toNat < _›.1, by omega⟩

/-- An IBUF word is reached only at an index that exists. -/
theorem State.target_eq_ibuf {s : State} {off j : Nat} (h : s.target off = .ibuf j) : j < s.params.ibufDepth := by
  unfold State.target at h
  split at h
  · cases h
  · split_ifs at h
    cases h
    assumption

/-! ## Accesses -/

theorem State.hostRead_eq (s : State) (off : Nat) :
    s.hostRead off = (s.busRead (s.target off)).2.reply (.data (s.busRead (s.target off)).1) := rfl

/-- A read changes nothing but the count of draws (spec R61). -/
theorem State.busRead_state (s : State) (t : Target) : (s.busRead t).2 = s ∨ (s.busRead t).2 = s.draw := by
  unfold State.busRead
  cases t <;> simp only <;> try split_ifs <;> simp
  all_goals simp

theorem State.hostRead_cases (s : State) (off : Nat) :
    ∃ w, s.hostRead off = s.reply (.data w) ∨ s.hostRead off = s.draw.reply (.data w) := by
  refine ⟨(s.busRead (s.target off)).1, ?_⟩
  rw [hostRead_eq]
  rcases s.busRead_state (s.target off) with h | h <;> simp [h]

theorem State.hostWrite_eq (s : State) (off : Nat) (v : Word) :
    s.hostWrite off v = (s.busWrite (s.target off) v).reply .ack := rfl

/-- A read of a register that holds no result returns its value (spec R50, R61). -/
theorem State.hostRead_reg (s : State) {r : Reg} (h : r.isResult = false) :
    s.hostRead r.offset = s.reply (.data (s.readReg r)) := by
  simp [hostRead_eq, busRead, h]

/-- A read of a register while idle returns its value (spec R61). -/
theorem State.hostRead_idle {s : State} (hb : s.status.busy = false) (r : Reg) :
    s.hostRead r.offset = s.reply (.data (s.readReg r)) := by
  simp [hostRead_eq, busRead, hb]

/-- A read of an existing KEYWIN word, busy or idle (spec R40, R50). -/
theorem State.hostRead_key {s : State} {j : Nat} (hj : j < s.params.keyDepth) (hw : j < 1024)
    (hk : s.keySel.toNat < s.params.nkeysMax) :
    s.hostRead (0x1000 + 4 * j) = s.reply (.data (s.keyWord s.keySel.toNat j)) := by
  rw [hostRead_eq, target_key hj hw hk]; rfl

/-- A read of an existing IBUF word, busy or idle (spec R41, R50). -/
theorem State.hostRead_ibuf {s : State} {j : Nat} (hj : j < s.params.ibufDepth) (hw : j < 4096) :
    s.hostRead (0x4000 + 4 * j) = s.reply (.data (s.ibufWord j)) := by
  rw [hostRead_eq, target_ibuf hj hw]; rfl

/-- A read of an existing OBUF word while idle (spec R42, R50). -/
theorem State.hostRead_obuf {s : State} {j : Nat} (hb : s.status.busy = false) (hj : j < s.params.obufDepth)
    (hw : j < 8192) : s.hostRead (0x8000 + 4 * j) = s.reply (.data (s.obufWord j)) := by
  rw [hostRead_eq, target_obuf hj hw]
  simp [busRead, hb]

/-- A read of a result register while busy (spec R50). -/
theorem State.hostRead_result {s : State} {r : Reg} (hb : s.status.busy = true) (h : r.isResult = true) :
    s.hostRead r.offset = s.draw.reply (.data (r.freeValue (Config.freeRead s.draws))) := by
  simp [hostRead_eq, busRead, hb, h]

/-- `readout` reads OLEN once and asks for as many OBUF words (spec R80). -/
theorem State.hostReadOut_eq (s : State) :
    s.hostReadOut = { s.hostRead Reg.olen.offset with
      hostQueue := (List.range (s.busRead (.reg .olen)).1.toNat).map (readObufOp s.params.base) ++
        (s.hostRead Reg.olen.offset).hostQueue } := by
  rw [hostRead_eq, target_offset]; rfl

/-- On an idle FRE it asks for OLEN words. -/
theorem State.hostReadOut_idle {s : State} (hb : s.status.busy = false) :
    s.hostReadOut = { s.reply (.data (s.olen.setWidth 32)) with
      hostQueue := (List.range s.olen.toNat).map (readObufOp s.params.base) ++ s.hostQueue } := by
  have h : s.busRead (.reg .olen) = (s.olen.setWidth 32, s) := by simp [busRead, hb, readReg]
  have hn : (s.olen.setWidth 32).toNat = s.olen.toNat := BitVec.toNat_setWidth_of_le (by decide)
  simp [hostReadOut, h, hn]

/-- A write to a register. -/
theorem State.hostWrite_reg (s : State) (r : Reg) (v : Word) :
    s.hostWrite r.offset v = (s.busWrite (.reg r) v).reply .ack := by
  rw [hostWrite_eq, target_offset]

theorem State.access_ok {s : State} {a : Nat} {p : Nat → State} (hr : s.rst = false) (h1 : s.params.base ≤ a)
    (h2 : a < s.params.base + 0x10000) (h3 : a % 4 = 0) : s.access a 4 p = .next (p (a - s.params.base)) := by
  simp [State.access, hr, State.inWindow, h1, h2, admitted, h3]

theorem State.access_cases (s : State) (a n : Nat) (p : Nat → State) :
    s.access a n p = .next (s.reply .dropped) ∨ s.access a n p = .fault .outsideWindow ∨
      s.access a n p = .fault .busError ∨ s.access a n p = .next (p (a - s.params.base)) := by
  unfold State.access
  split_ifs <;> simp

/-- Everything an event of the outside world can do. -/
theorem State.hostEvent_inv {s t : State} {op : HostOp} (h : s.hostEvent op = .next t) :
    t = s.reply .dropped ∨ (∃ a n, op = .read a n ∧ s.rst = false ∧ t = s.hostRead (a - s.params.base)) ∨
    (∃ a n v, op = .write a n v ∧ s.rst = false ∧ s.params.base ≤ a ∧ t = s.hostWrite (a - s.params.base) v) ∨
    (op = .wait ∧ t = s.hostWait) ∨ (op = .readOut ∧ s.rst = false ∧ t = s.hostReadOut) ∨
    (op = .rst true ∧ t = { s.hwReset with rst := true }) ∨
    (op = .rst false ∧ t = { s with rst := false }) := by
  cases op with
  | read a n =>
    simp only [hostEvent, access] at h
    split_ifs at h <;> cases h
    · exact .inl rfl
    · refine .inr (.inl ⟨a, n, rfl, by simpa using ‹¬ s.rst = true›, rfl⟩)
  | write a n v =>
    simp only [hostEvent, access] at h
    split_ifs at h <;> cases h
    · exact .inl rfl
    · refine .inr (.inr (.inl ⟨a, n, v, rfl, by simpa using ‹¬ s.rst = true›, ?_, rfl⟩))
      rename_i h1 _
      simp [inWindow] at h1
      exact h1.1
  | wait =>
    simp only [hostEvent] at h
    split_ifs at h <;> cases h
    · exact .inl rfl
    · exact .inr (.inr (.inr (.inl ⟨rfl, rfl⟩)))
  | readOut =>
    simp only [hostEvent] at h
    split_ifs at h <;> cases h
    · exact .inl rfl
    · exact .inr (.inr (.inr (.inr (.inl ⟨rfl, by simpa using ‹¬ s.rst = true›, rfl⟩))))
  | rst b =>
    cases b <;> (cases h; simp)

/-- The state after a HOST write, by what it reaches. -/
theorem State.busWrite_cases (s : State) (t : Target) (v : Word) :
    (t = .reg .ctrl ∧ s.busWrite t v = s.writeCtrl v) ∨ (t = .reg .status ∧ s.busWrite t v = s.w1c v) ∨
    (∃ r, t = .reg r ∧ r.isRw = true ∧ s.status.busy = true ∧ s.busWrite t v = s.overrun) ∨
    (∃ r, t = .reg r ∧ r.isRw = true ∧ s.status.busy = false ∧ s.busWrite t v = s.writeRw r v) ∨
    (∃ k j, t = .key k j ∧ s.status.busy = true ∧ s.busWrite t v = s.overrun) ∨
    (∃ k j, t = .key k j ∧ s.status.busy = false ∧
      s.busWrite t v = { s with key := s.key.writeWord (keyAddr k j) v }.invalidate) ∨
    (∃ j, t = .ibuf j ∧ s.status.busy = true ∧ s.busWrite t v = s.overrun) ∨
    (∃ j, t = .ibuf j ∧ s.status.busy = false ∧
      s.busWrite t v = { s with ibuf := s.ibuf.writeWord (4 * j) v }) ∨
    s.busWrite t v = s := by
  rcases hb : s.status.busy with _ | _ <;> cases t with
  | reg r => cases r <;> simp [busWrite, Reg.isRw, hb]
  | key k j => simp [busWrite, hb]
  | ibuf j => simp [busWrite, hb]
  | obuf j => simp [busWrite]
  | reserved => simp [busWrite]

/-- A write while busy to a protected target (spec R44). -/
theorem State.busWrite_busy {s : State} (hb : s.status.busy = true) {t : Target} (v : Word)
    (ht : (∃ r, t = .reg r ∧ r.isRw = true) ∨ (∃ k j, t = .key k j) ∨ ∃ j, t = .ibuf j) :
    s.busWrite t v = s.overrun := by
  rcases ht with ⟨r, rfl, hr⟩ | ⟨k, j, rfl⟩ | ⟨j, rfl⟩
  · cases r <;> simp_all [busWrite, Reg.isRw]
  · simp [busWrite, hb]
  · simp [busWrite, hb]

/-- A write while idle to a protected register. -/
theorem State.busWrite_idle {s : State} (hb : s.status.busy = false) {r : Reg} (hr : r.isRw = true) (v : Word) :
    s.busWrite (.reg r) v = s.writeRw r v := by
  cases r <;> simp_all [busWrite, Reg.isRw]

/-- An idle write to a register of the busy window, at its offset. -/
theorem State.hostWrite_idle {s : State} (hb : s.status.busy = false) {r : Reg} (hr : r.isRw = true) (v : Word) :
    s.hostWrite r.offset v = (s.writeRw r v).reply .ack := by
  rw [hostWrite_reg, busWrite_idle hb hr]

/-- An idle write to an existing IBUF word (spec R41). -/
theorem State.hostWrite_ibuf {s : State} {j : Nat} (hb : s.status.busy = false) (hj : j < s.params.ibufDepth)
    (hw : j < 4096) (v : Word) :
    s.hostWrite (0x4000 + 4 * j) v = State.reply { s with ibuf := s.ibuf.writeWord (4 * j) v } .ack := by
  rw [hostWrite_eq, target_ibuf hj hw]
  simp [busWrite, hb]

/-- An idle write to an existing KEYWIN word of slot KEYSEL (spec R40, R47). -/
theorem State.hostWrite_key {s : State} {j : Nat} (hb : s.status.busy = false) (hj : j < s.params.keyDepth)
    (hw : j < 1024) (hk : s.keySel.toNat < s.params.nkeysMax) (v : Word) :
    s.hostWrite (0x1000 + 4 * j) v =
      State.reply (State.invalidate { s with key := s.key.writeWord (keyAddr s.keySel.toNat j) v }) .ack := by
  rw [hostWrite_eq, target_key hj hw hk]
  simp [busWrite, hb]

end Sys2Proof.Machine
end

