-- ==== Sys2Proof/Laws/Text.lean ====
section
/-! SUPPORT. UTF-8 and hex in arithmetic form, and their ranges and lengths. -/

namespace Sys2Proof.Machine

/-! ## UTF-8 encoding -/

theorem isScalar_iff (c : Nat) : isScalar c = true ↔ c ≤ 0x10FFFF ∧ ¬ (0xD800 ≤ c ∧ c ≤ 0xDFFF) := by
  simp only [isScalar, Bool.and_eq_true, Bool.not_eq_true', decide_eq_true_eq, Bool.and_eq_false_iff,
    decide_eq_false_iff_not]
  omega

theorem isScalar_of_ascii {c : Nat} (h : c < 0x80) : isScalar c = true := (isScalar_iff c).mpr (by omega)

theorem and_3f (x : Nat) : x &&& 0x3F = x % 64 := Nat.and_two_pow_sub_one_eq_mod x 6

theorem or_80 {y : Nat} (h : y < 64) : 0x80 ||| y = 128 + y := (Nat.two_pow_add_eq_or_of_lt (i := 6) h 2).symm

theorem or_c0 {y : Nat} (h : y < 64) : 0xC0 ||| y = 192 + y := (Nat.two_pow_add_eq_or_of_lt (i := 6) h 3).symm

theorem or_e0 {y : Nat} (h : y < 16) : 0xE0 ||| y = 224 + y := (Nat.two_pow_add_eq_or_of_lt (i := 4) h 14).symm

theorem or_f0 {y : Nat} (h : y < 8) : 0xF0 ||| y = 240 + y := (Nat.two_pow_add_eq_or_of_lt (i := 3) h 30).symm

/-- The byte pattern of a code point, in arithmetic (spec R102). -/
theorem utf8Char_eq {c : Nat} (h : c ≤ 0x10FFFF) : utf8Char c =
    if c < 128 then [c] else if c < 2048 then [192 + c / 64, 128 + c % 64]
    else if c < 65536 then [224 + c / 4096, 128 + c / 64 % 64, 128 + c % 64]
    else [240 + c / 262144, 128 + c / 4096 % 64, 128 + c / 64 % 64, 128 + c % 64] := by
  have m : ∀ y : Nat, 0x80 ||| (y % 64) = 128 + y % 64 := fun y => or_80 (Nat.mod_lt _ (by decide))
  simp only [utf8Char, and_3f, Nat.shiftRight_eq_div_pow, m]
  split_ifs <;> first | omega | rfl | skip
  · rw [or_c0 (by omega)]
  · rw [or_e0 (by omega)]
  · rw [or_f0 (by omega)]

theorem utf8Char_bytes {c : Nat} (h : c ≤ 0x10FFFF) : ∀ x ∈ utf8Char c, x < 256 := by
  rw [utf8Char_eq h]
  split_ifs <;> simp <;> omega

theorem utf8Char_length (c : Nat) : (utf8Char c).length =
    if c ≤ 0x7F then 1 else if c ≤ 0x7FF then 2 else if c ≤ 0xFFFF then 3 else 4 := by
  unfold utf8Char
  split_ifs <;> rfl

@[simp] theorem utf8_nil : utf8 [] = .ok [] := rfl

theorem utf8_cons (c : Nat) (cs : Units) :
    utf8 (c :: cs) = if isScalar c then (utf8 cs).map (utf8Char c ++ ·) else .error .unencodable := rfl

/-- UTF8 never raises on scalar values, and its result is bytes (spec R102). -/
theorem utf8_ok {v : Units} (h : ∀ c ∈ v, isScalar c = true) :
    utf8 v = .ok (v.flatMap utf8Char) ∧ ∀ x ∈ v.flatMap utf8Char, x < 256 := by
  induction v with
  | nil => exact ⟨rfl, by simp⟩
  | cons c cs ih =>
    have hc := h c (by simp)
    obtain ⟨h1, h2⟩ := ih fun x hx => h x (by simp [hx])
    refine ⟨by rw [utf8_cons, if_pos hc, h1]; rfl, fun x hx => ?_⟩
    rcases List.mem_append.mp (List.flatMap_cons ▸ hx) with hx | hx
    · exact utf8Char_bytes ((isScalar_iff c).mp hc).1 x hx
    · exact h2 x hx

/-- UTF8 raises 0xE3 on a value that is no scalar, and nothing else (spec R102). -/
theorem utf8_error {v : Units} (h : ¬ ∀ c ∈ v, isScalar c = true) : utf8 v = .error .unencodable := by
  induction v with
  | nil => simp at h
  | cons c cs ih =>
    rw [utf8_cons]
    by_cases hc : isScalar c = true
    · rw [if_pos hc, ih (fun hcs => h (by simpa [hc] using hcs))]; rfl
    · rw [if_neg hc]

theorem utf8_eq_ok {v b : Units} (h : utf8 v = .ok b) :
    (∀ c ∈ v, isScalar c = true) ∧ b = v.flatMap utf8Char := by
  by_cases hv : ∀ c ∈ v, isScalar c = true
  · refine ⟨hv, ?_⟩
    rw [(utf8_ok hv).1] at h
    cases h; rfl
  · rw [utf8_error hv] at h; cases h

theorem utf8_eq_error {v : Units} {e : ErrCode} (h : utf8 v = .error e) :
    e = .unencodable ∧ ¬ ∀ c ∈ v, isScalar c = true := by
  by_cases hv : ∀ c ∈ v, isScalar c = true
  · rw [(utf8_ok hv).1] at h; cases h
  · rw [utf8_error hv] at h; cases h; exact ⟨rfl, hv⟩

theorem utf8Char_ne_nil (c : Nat) : utf8Char c ≠ [] := by
  unfold utf8Char
  split_ifs <;> simp

/-- The bytes of a non-empty text are not empty. -/
theorem utf8_ne_nil {v b : Units} (h : utf8 v = .ok b) (hv : v ≠ []) : b ≠ [] := by
  obtain ⟨-, rfl⟩ := utf8_eq_ok h
  cases v with
  | nil => exact absurd rfl hv
  | cons c cs => simp [utf8Char_ne_nil]

/-- ASCII text is its own UTF-8. -/
theorem utf8_ascii {v : Units} (h : ∀ c ∈ v, c < 0x80) : utf8 v = .ok v := by
  induction v with
  | nil => rfl
  | cons c cs ih =>
    have hc : c < 0x80 := h c (by simp)
    rw [utf8_cons, if_pos (isScalar_of_ascii hc), ih fun x hx => h x (by simp [hx]), map_ok,
      utf8Char_eq (by omega), if_pos hc]
    rfl

/-! ## UTF-8 decoding -/

theorem utf8DecOpt_one {b : Nat} (h : b < 128) (t : Units) : utf8DecOpt (b :: t) = (utf8DecOpt t).map (b :: ·) := by
  rw [utf8DecOpt.eq_def]
  simp only
  rw [if_pos (by omega)]

theorem isCont_iff (b : Nat) : isCont b = true ↔ 128 ≤ b ∧ b < 192 := by
  simp only [isCont, Bool.and_eq_true, decide_eq_true_eq]; omega

theorem join2 (a b : Nat) : ((a &&& 0x1F) <<< 6) ||| (b &&& 0x3F) = a % 32 * 64 + b % 64 := by
  rw [and_3f, show a &&& 0x1F = a % 32 from Nat.and_two_pow_sub_one_eq_mod a 5, Nat.shiftLeft_eq, Nat.mul_comm,
    ← Nat.two_pow_add_eq_or_of_lt (Nat.mod_lt b (by decide : 64 > 0))]

theorem join3 (a b c : Nat) : ((a &&& 0x0F) <<< 12) ||| ((b &&& 0x3F) <<< 6) ||| (c &&& 0x3F) =
    (a % 16 * 64 + b % 64) * 64 + c % 64 := by
  have hb := Nat.mod_lt b (by decide : 64 > 0)
  have hc := Nat.mod_lt c (by decide : 64 > 0)
  rw [and_3f, and_3f, show a &&& 0x0F = a % 16 from Nat.and_two_pow_sub_one_eq_mod a 4, Nat.shiftLeft_eq,
    Nat.shiftLeft_eq, Nat.mul_comm (a % 16), ← Nat.two_pow_add_eq_or_of_lt (i := 12) (by omega),
    show 2 ^ 12 * (a % 16) + b % 64 * 2 ^ 6 = 2 ^ 6 * (2 ^ 6 * (a % 16) + b % 64) by omega,
    ← Nat.two_pow_add_eq_or_of_lt (i := 6) hc]
  omega

theorem join4 (a b c d : Nat) :
    ((a &&& 0x07) <<< 18) ||| ((b &&& 0x3F) <<< 12) ||| ((c &&& 0x3F) <<< 6) ||| (d &&& 0x3F) =
      ((a % 8 * 64 + b % 64) * 64 + c % 64) * 64 + d % 64 := by
  have hb := Nat.mod_lt b (by decide : 64 > 0)
  have hc := Nat.mod_lt c (by decide : 64 > 0)
  have hd := Nat.mod_lt d (by decide : 64 > 0)
  rw [and_3f, and_3f, and_3f, show a &&& 0x07 = a % 8 from Nat.and_two_pow_sub_one_eq_mod a 3, Nat.shiftLeft_eq,
    Nat.shiftLeft_eq, Nat.shiftLeft_eq, Nat.mul_comm (a % 8), ← Nat.two_pow_add_eq_or_of_lt (i := 18) (by omega),
    show 2 ^ 18 * (a % 8) + b % 64 * 2 ^ 12 = 2 ^ 12 * (2 ^ 6 * (a % 8) + b % 64) by omega,
    ← Nat.two_pow_add_eq_or_of_lt (i := 12) (by omega),
    show 2 ^ 12 * (2 ^ 6 * (a % 8) + b % 64) + c % 64 * 2 ^ 6 = 2 ^ 6 * (2 ^ 6 * (2 ^ 6 * (a % 8) + b % 64) + c % 64)
      by omega,
    ← Nat.two_pow_add_eq_or_of_lt (i := 6) hd]
  omega

theorem utf8DecOpt_two {a b : Nat} (ha : 194 ≤ a ∧ a ≤ 223) (hb : 128 ≤ b ∧ b < 192) (t : Units) :
    utf8DecOpt (a :: b :: t) = (utf8DecOpt t).map ((a % 32 * 64 + b % 64) :: ·) := by
  rw [utf8DecOpt.eq_def]
  simp only
  rw [if_neg (by omega)]
  rw [if_pos (by simpa using ha), if_pos ((isCont_iff b).mpr hb), join2]

theorem utf8DecOpt_three {a b c : Nat} (ha : 224 ≤ a ∧ a ≤ 239) (hb : 128 ≤ b ∧ b < 192) (hc : 128 ≤ c ∧ c < 192)
    (hmin : 0x800 ≤ (a % 16 * 64 + b % 64) * 64 + c % 64)
    (hs : isScalar ((a % 16 * 64 + b % 64) * 64 + c % 64) = true) (t : Units) :
    utf8DecOpt (a :: b :: c :: t) = (utf8DecOpt t).map (((a % 16 * 64 + b % 64) * 64 + c % 64) :: ·) := by
  rw [utf8DecOpt.eq_def]
  simp only
  rw [if_neg (by omega)]
  rw [if_neg (by simp; omega), if_pos (by simpa using ha), join3]
  rw [if_pos (by simp [(isCont_iff b).mpr hb, (isCont_iff c).mpr hc, hmin, hs])]

theorem utf8DecOpt_four {a b c d : Nat} (ha : 240 ≤ a ∧ a ≤ 244) (hb : 128 ≤ b ∧ b < 192) (hc : 128 ≤ c ∧ c < 192)
    (hd : 128 ≤ d ∧ d < 192) (hmin : 0x10000 ≤ ((a % 8 * 64 + b % 64) * 64 + c % 64) * 64 + d % 64)
    (hs : isScalar (((a % 8 * 64 + b % 64) * 64 + c % 64) * 64 + d % 64) = true) (t : Units) :
    utf8DecOpt (a :: b :: c :: d :: t) =
      (utf8DecOpt t).map ((((a % 8 * 64 + b % 64) * 64 + c % 64) * 64 + d % 64) :: ·) := by
  rw [utf8DecOpt.eq_def]
  simp only
  rw [if_neg (by omega)]
  rw [if_neg (by simp; omega), if_neg (by simp; omega), if_pos (by simpa using ha), join4]
  rw [if_pos (by simp [(isCont_iff b).mpr hb, (isCont_iff c).mpr hc, (isCont_iff d).mpr hd, hmin, hs])]

/-- The decoder takes one encoded scalar value off the front. -/
theorem utf8DecOpt_utf8Char {c : Nat} (h : isScalar c = true) (t : Units) :
    utf8DecOpt (utf8Char c ++ t) = (utf8DecOpt t).map (c :: ·) := by
  have hs := (isScalar_iff c).mp h
  rw [utf8Char_eq hs.1]
  split_ifs with h1 h2 h3
  · exact utf8DecOpt_one h1 t
  · have e : (192 + c / 64) % 32 * 64 + (128 + c % 64) % 64 = c := by omega
    have := utf8DecOpt_two (a := 192 + c / 64) (b := 128 + c % 64) (by omega) (by omega) t
    rwa [e] at this
  · have e : ((224 + c / 4096) % 16 * 64 + (128 + c / 64 % 64) % 64) * 64 + (128 + c % 64) % 64 = c := by omega
    have := utf8DecOpt_three (a := 224 + c / 4096) (b := 128 + c / 64 % 64) (c := 128 + c % 64) (by omega) (by omega)
      (by omega) (by omega) (by rw [e]; exact h) t
    rwa [e] at this
  · have e : (((240 + c / 262144) % 8 * 64 + (128 + c / 4096 % 64) % 64) * 64 + (128 + c / 64 % 64) % 64) * 64 +
        (128 + c % 64) % 64 = c := by omega
    have := utf8DecOpt_four (a := 240 + c / 262144) (b := 128 + c / 4096 % 64) (c := 128 + c / 64 % 64)
      (d := 128 + c % 64) (by omega) (by omega) (by omega) (by omega) (by omega) (by rw [e]; exact h) t
    rwa [e] at this

/-- What the decoder reads off the front of a non-empty byte vector. -/
theorem utf8DecOpt_front {b v : Units} (h : utf8DecOpt b = some v) (hb : b ≠ []) :
    ∃ c t v', isScalar c = true ∧ b = utf8Char c ++ t ∧ v = c :: v' ∧ utf8DecOpt t = some v' ∧
      t.length < b.length := by
  rcases b with _ | ⟨a, t⟩
  · exact absurd rfl hb
  by_cases ha : a ≤ 0x7F
  · rw [utf8DecOpt_one (by omega)] at h
    obtain ⟨v', h', rfl⟩ := Option.map_eq_some_iff.mp h
    refine ⟨a, t, v', isScalar_of_ascii (by omega), ?_, rfl, h', by simp⟩
    rw [utf8Char_eq (by omega), if_pos (by omega)]; rfl
  rw [utf8DecOpt.eq_def] at h
  simp only at h
  rw [if_neg ha] at h
  rcases t with _ | ⟨b, t⟩
  · cases h
  simp only at h
  split at h
  · rename_i ha2
    simp only [Bool.and_eq_true, decide_eq_true_eq] at ha2
    split at h
    · rename_i hb2
      rw [isCont_iff] at hb2
      rw [join2] at h
      obtain ⟨v', h', rfl⟩ := Option.map_eq_some_iff.mp h
      refine ⟨_, t, v', (isScalar_iff _).mpr (by omega), ?_, rfl, h', by simp⟩
      rw [utf8Char_eq (by omega), if_neg (by omega), if_pos (by omega)]
      simp only [List.cons_append, List.nil_append, List.cons.injEq, and_true]
      omega
    · cases h
  rcases t with _ | ⟨c, t⟩
  · cases h
  simp only at h
  split at h
  · rename_i ha3
    simp only [Bool.and_eq_true, decide_eq_true_eq] at ha3
    rw [join3] at h
    split at h
    · rename_i hc3
      simp only [Bool.and_eq_true, decide_eq_true_eq, isCont_iff] at hc3
      obtain ⟨⟨⟨h1, h2⟩, h3⟩, h4⟩ := hc3
      obtain ⟨v', h', rfl⟩ := Option.map_eq_some_iff.mp h
      have h5 := (isScalar_iff _).mp h4
      refine ⟨_, t, v', h4, ?_, rfl, h', by simp; omega⟩
      rw [utf8Char_eq (by omega), if_neg (by omega), if_neg (by omega), if_pos (by omega)]
      simp only [List.cons_append, List.nil_append, List.cons.injEq, and_true]
      omega
    · cases h
  rcases t with _ | ⟨d, t⟩
  · cases h
  simp only at h
  split at h
  · rename_i ha4
    simp only [Bool.and_eq_true, decide_eq_true_eq] at ha4
    rw [join4] at h
    split at h
    · rename_i hc4
      simp only [Bool.and_eq_true, decide_eq_true_eq, isCont_iff] at hc4
      obtain ⟨⟨⟨⟨h1, h2⟩, h3⟩, h4⟩, h5⟩ := hc4
      obtain ⟨v', h', rfl⟩ := Option.map_eq_some_iff.mp h
      have h6 := (isScalar_iff _).mp h5
      refine ⟨_, t, v', h5, ?_, rfl, h', by simp; omega⟩
      rw [utf8Char_eq (by omega), if_neg (by omega), if_neg (by omega), if_neg (by omega)]
      simp only [List.cons_append, List.nil_append, List.cons.injEq, and_true]
      omega
    · cases h
  · cases h

/-- UTF8DEC raises nothing but 0x33 (spec R103). -/
theorem utf8Dec_error {b : Units} {e : ErrCode} (h : utf8Dec b = .error e) : e = .ctBadUtf8 := by
  unfold utf8Dec at h
  split at h <;> cases h
  rfl

/-! ## Hex -/

theorem hexDigit_range {x : Nat} (h : x < 16) :
    (0x30 ≤ hexDigit x ∧ hexDigit x ≤ 0x39) ∨ (0x61 ≤ hexDigit x ∧ hexDigit x ≤ 0x66) := by
  unfold hexDigit
  split_ifs <;> omega

@[simp] theorem hex_length (d : Vector Byte 32) : (hex d).length = 64 := by
  simp [hex, List.length_flatMap]

/-- Every element of HEX(d) is a lowercase hexadecimal digit code (spec R118). -/
theorem hex_range {d : Vector Byte 32} {c : Nat} (h : c ∈ hex d) :
    (0x30 ≤ c ∧ c ≤ 0x39) ∨ (0x61 ≤ c ∧ c ≤ 0x66) := by
  obtain ⟨b, -, hc⟩ := List.mem_flatMap.mp h
  have hb := b.isLt
  have h1 : b.toNat >>> 4 < 16 := by rw [Nat.shiftRight_eq_div_pow]; omega
  have h2 : b.toNat &&& 0xF < 16 := by
    rw [show b.toNat &&& 0xF = b.toNat % 16 from Nat.and_two_pow_sub_one_eq_mod _ 4]; omega
  simp only [List.mem_cons, List.not_mem_nil, or_false] at hc
  rcases hc with rfl | rfl
  · exact hexDigit_range h1
  · exact hexDigit_range h2

end Sys2Proof.Machine
end

