-- ==== Sys2Proof/Laws/Datapath.lean ====
section
/-! SUPPORT. One lemma for each datapath function that says what it gives: lengths, ranges, when it raises, and how a
round is taken back. -/

namespace Sys2Proof.Machine

/-! ## Keyed arithmetic -/

theorem extractUnits_ok {k : Units} (h : k ≠ []) (idx n : Nat) :
    extractUnits k idx n = .ok ((List.range n).map fun j => k.getD ((idx + j) % k.length) 0) :=
  if_neg (by simpa using h)

theorem extractUnits_nil (idx n : Nat) : extractUnits [] idx n = .error .keyEmpty := rfl

theorem extractUnits_eq_ok {k out : Units} {idx n : Nat} (h : extractUnits k idx n = .ok out) :
    k ≠ [] ∧ out = (List.range n).map fun j => k.getD ((idx + j) % k.length) 0 := by
  by_cases hk : k = []
  · subst hk; cases h
  · rw [extractUnits_ok hk] at h; cases h; exact ⟨hk, rfl⟩

theorem extractUnits_eq_error {k : Units} {idx n : Nat} {e : ErrCode} (h : extractUnits k idx n = .error e) :
    k = [] ∧ e = .keyEmpty := by
  by_cases hk : k = []
  · subst hk; cases h; exact ⟨rfl, rfl⟩
  · rw [extractUnits_ok hk] at h; cases h

/-- Every element EXTRACT gives is an element of the key material. -/
theorem mem_of_extractUnits {k out : Units} {idx n c : Nat} (h : extractUnits k idx n = .ok out) (hc : c ∈ out) :
    c ∈ k := by
  obtain ⟨hk, rfl⟩ := extractUnits_eq_ok h
  obtain ⟨j, -, rfl⟩ := List.mem_map.mp hc
  have hlt : (idx + j) % k.length < k.length := Nat.mod_lt _ (List.length_pos_iff.mpr hk)
  rw [List.getD_eq_getElem _ _ hlt]
  exact List.getElem_mem hlt

theorem addCp_ok {a b : Units} (h : a.length = b.length) : addCp a b = .ok (List.zipWith (· + ·) a b) :=
  if_neg (not_not.mpr h)

theorem addBytes_ok {a b : Units} (h : a.length = b.length) :
    addBytes a b = .ok (List.zipWith expandSum a b).flatten := if_neg (not_not.mpr h)

theorem xorUnits_ok {a b : Units} (h : a.length = b.length) : xorUnits a b = .ok (List.zipWith (· ^^^ ·) a b) :=
  if_neg (not_not.mpr h)

theorem xorUnits_ne {a b : Units} (h : a.length ≠ b.length) : xorUnits a b = .error .lengthMismatch := if_pos h

theorem xorUnits_eq_ok {a b out : Units} (h : xorUnits a b = .ok out) :
    a.length = b.length ∧ out = List.zipWith (· ^^^ ·) a b := by
  by_cases hl : a.length = b.length
  · rw [xorUnits_ok hl] at h; cases h; exact ⟨hl, rfl⟩
  · rw [xorUnits_ne hl] at h; cases h

theorem xorUnits_eq_error {a b : Units} {e : ErrCode} (h : xorUnits a b = .error e) : e = .lengthMismatch := by
  unfold xorUnits at h
  split at h <;> cases h
  rfl

/-- The same mask twice is no mask. -/
theorem zipWith_xor_cancel {a m : Units} (h : a.length = m.length) :
    List.zipWith (· ^^^ ·) (List.zipWith (· ^^^ ·) a m) m = a := by
  induction a generalizing m with
  | nil => rfl
  | cons x a ih =>
    cases m with
    | nil => simp at h
    | cons y m =>
      simp only [List.zipWith_cons_cons, Nat.xor_assoc, Nat.xor_self, Nat.xor_zero, List.cons.injEq, true_and]
      exact ih (by simpa using h)

/-- A property that XOR with a small mask keeps holds of a masked vector. -/
theorem zipWith_xor_forall {p : Nat → Prop} (hp : ∀ c m, p c → m < 0x80 → p (c ^^^ m)) {a m : Units}
    (ha : ∀ c ∈ a, p c) (hm : ∀ c ∈ m, c < 0x80) : ∀ c ∈ List.zipWith (· ^^^ ·) a m, p c := by
  induction a generalizing m with
  | nil => simp
  | cons x a ih =>
    cases m with
    | nil => simp
    | cons y m =>
      intro c hc
      simp only [List.zipWith_cons_cons, List.mem_cons] at hc
      rcases hc with rfl | hc
      · exact hp x y (ha x (by simp)) (hm y (by simp))
      · exact ih (fun c h => ha c (by simp [h])) (fun c h => hm c (by simp [h])) c hc

theorem xor_lt_pow {n c m : Nat} (hc : c < 2 ^ n) (hm : m < 2 ^ n) : c ^^^ m < 2 ^ n := Nat.xor_lt_two_pow hc hm

/-- A mask below 0x80 keeps the upper bits (spec R109). -/
theorem xor_div_128 {c m : Nat} (hm : m < 0x80) : (c ^^^ m) / 128 = c / 128 := by
  have := Nat.shiftRight_xor_distrib (a := c) (b := m) (i := 7)
  simp only [Nat.shiftRight_eq_div_pow] at this
  rw [show c / 128 = c / 2 ^ 7 from rfl, show (c ^^^ m) / 128 = (c ^^^ m) / 2 ^ 7 from rfl, this,
    show m / 2 ^ 7 = 0 by omega, Nat.xor_zero]

theorem expandSum_bytes (x y : Nat) : ∀ c ∈ expandSum x y, c < 256 := by
  have := Nat.mod_lt (x + y) (by decide : 256 > 0)
  unfold expandSum
  dsimp only
  split_ifs <;> simp <;> omega

/-! ## Padding and splitting -/

theorem padUnits_length (s : Units) : (padUnits s).length = s.length + s.length % 2 := by
  unfold padUnits
  split <;> simp <;> omega

theorem unpadUnits_padUnits (s : Units) : unpadUnits (padUnits s) = unpadUnits s := by
  unfold padUnits
  split
  · simp [unpadUnits, Config.padMark]
  · rfl

theorem unpadUnits_of_head {s : Units} (h : s.head? ≠ some Config.padMark) : unpadUnits s = s := by
  cases s with
  | nil => rfl
  | cons x s => simp_all [unpadUnits]

theorem splitUnits_append (s : Units) : (splitUnits s).1 ++ (splitUnits s).2 = s := List.take_append_drop _ _

theorem splitUnits_length (s : Units) :
    (splitUnits s).1.length = s.length / 2 ∧ (splitUnits s).2.length = s.length - s.length / 2 := by
  simp only [splitUnits, List.length_take, List.length_drop, and_true]
  omega

/-- Splitting two halves put together again, the second as long as the first or longer by one. -/
theorem splitUnits_of_append {l r : Units} (h : l.length = r.length ∨ l.length + 1 = r.length) :
    splitUnits (l ++ r) = (l, r) := by
  have : (l ++ r).length / 2 = l.length := by rw [List.length_append]; omega
  rw [splitUnits, this, List.take_left, List.drop_left]

/-! ## Round functions (spec R119 to R122) -/

/-- What a round function may be in a core: it keeps the length and masks below 0x80. -/
structure IsMask (f : Nat → Units → Except ErrCode Units) : Prop where
  length : ∀ {i x m}, f i x = .ok m → m.length = x.length
  small : ∀ {i x m}, f i x = .ok m → ∀ c ∈ m, c < 0x80

theorem hexSlice_spec {d : Vector Byte 32} {i n : Nat} {out : Units} (h : extractUnits (hex d) i n = .ok out) :
    out.length = n ∧ (∀ c ∈ out, (0x30 ≤ c ∧ c ≤ 0x39) ∨ (0x61 ≤ c ∧ c ≤ 0x66)) ∧
      ∀ j < n, out.getD j 0 = (hex d).getD ((i + j) % 64) 0 := by
  refine ⟨?_, fun c hc => hex_range (mem_of_extractUnits h hc), ?_⟩
  · obtain ⟨-, rfl⟩ := extractUnits_eq_ok h
    simp
  · intro j hj
    obtain ⟨-, rfl⟩ := extractUnits_eq_ok h
    rw [List.getD_eq_getElem _ _ (by simpa using hj)]
    simp [hex_length]

theorem hex_ne_nil (d : Vector Byte 32) : hex d ≠ [] := fun h => by simpa [h] using hex_length d

/-- ROUND_B under a non-empty key: it never raises (spec R120, R122). -/
theorem roundB_ok (dg : DigestFn) (item : Units) (i : Nat) {kb : Units} (h : kb ≠ []) (e : Engine) :
    roundB dg item i kb e = .ok ((List.range item.length).map fun j =>
      (hex (dg e (toBytes (List.zipWith expandSum item
        ((List.range item.length).map fun j => kb.getD ((i + j) % kb.length) 0)).flatten))).getD ((i + j) % 64) 0) := by
  unfold roundB
  rw [extractUnits_ok h, bind_ok, addBytes_ok (by simp), bind_ok, extractUnits_ok (hex_ne_nil _), hex_length]

theorem roundB_nil (dg : DigestFn) (item : Units) (i : Nat) (e : Engine) :
    roundB dg item i [] e = .error .keyEmpty := rfl

theorem roundB_eq_ok {dg : DigestFn} {item kb out : Units} {i : Nat} {e : Engine}
    (h : roundB dg item i kb e = .ok out) : kb ≠ [] ∧ ∃ d, extractUnits (hex d) i item.length = .ok out := by
  have hk : kb ≠ [] := by rintro rfl; cases h
  refine ⟨hk, ?_⟩
  unfold roundB at h
  obtain ⟨_, -, h⟩ := bind_eq_ok.mp h
  obtain ⟨_, -, h⟩ := bind_eq_ok.mp h
  exact ⟨_, h⟩

/-- ROUND_CP, by its steps: it gives a slice of a hex digest (spec R119). -/
theorem roundCp_eq_ok {dg : DigestFn} {item key out : Units} {i : Nat} {e : Engine}
    (h : roundCp dg item i key e = .ok out) : key ≠ [] ∧ ∃ d, extractUnits (hex d) i item.length = .ok out := by
  unfold roundCp at h
  obtain ⟨_, h1, h⟩ := bind_eq_ok.mp h
  obtain ⟨_, -, h⟩ := bind_eq_ok.mp h
  obtain ⟨_, -, h⟩ := bind_eq_ok.mp h
  exact ⟨(extractUnits_eq_ok h1).1, _, h⟩

/-- ROUND_CP under a non-empty key, where every sum is a scalar value (spec R119, R122). -/
theorem roundCp_ok (dg : DigestFn) (item : Units) (i : Nat) {key : Units} (h : key ≠ []) (e : Engine) {b : Units}
    (hb : utf8 (List.zipWith (· + ·) item
      ((List.range item.length).map fun j => key.getD ((i + j) % key.length) 0)) = .ok b) :
    roundCp dg item i key e = .ok ((List.range item.length).map fun j =>
      (hex (dg e (toBytes b))).getD ((i + j) % 64) 0) := by
  unfold roundCp
  rw [extractUnits_ok h, bind_ok, addCp_ok (by simp), bind_ok, hb, bind_ok, extractUnits_ok (hex_ne_nil _),
    hex_length]

/-- The errors of ROUND_CP (spec R122). -/
theorem roundCp_eq_error {dg : DigestFn} {item key : Units} {i : Nat} {e : Engine} {x : ErrCode}
    (h : roundCp dg item i key e = .error x) : (key = [] ∧ x = .keyEmpty) ∨ (key ≠ [] ∧ x = .unencodable) := by
  by_cases hk : key = []
  · subst hk; cases h; exact .inl ⟨rfl, rfl⟩
  · refine .inr ⟨hk, ?_⟩
    unfold roundCp at h
    rw [extractUnits_ok hk, bind_ok, addCp_ok (by simp), bind_ok] at h
    rcases bind_eq_error.mp h with h | ⟨_, -, h⟩
    · exact (utf8_eq_error h).1
    · exact absurd (extractUnits_eq_error h).1 (hex_ne_nil _)

theorem isMask_of_hexSlice {f : Nat → Units → Except ErrCode Units}
    (h : ∀ {i x m}, f i x = .ok m → ∃ d, extractUnits (hex d) i x.length = .ok m) : IsMask f where
  length hm := by
    obtain ⟨d, hd⟩ := h hm
    exact (hexSlice_spec hd).1
  small hm c hc := by
    obtain ⟨d, hd⟩ := h hm
    rcases (hexSlice_spec hd).2.1 c hc with h | h <;> omega

theorem isMask_roundCp (dg : DigestFn) (keyf : Nat → Units) (e : Engine) :
    IsMask fun i x => roundCp dg x i (keyf i) e := isMask_of_hexSlice fun h => (roundCp_eq_ok h).2

theorem isMask_roundB (dg : DigestFn) (kb : Units) (e : Engine) : IsMask fun i x => roundB dg x i kb e :=
  isMask_of_hexSlice fun h => (roundB_eq_ok h).2

/-- The sums of ROUND_CP are scalar values exactly where each of its positions is (spec R119). -/
theorem mixed_scalar (item key : Units) (i : Nat) :
    (∀ c ∈ List.zipWith (· + ·) item ((List.range item.length).map fun j => key.getD ((i + j) % key.length) 0),
      isScalar c = true) ↔
    ∀ j < item.length, isScalar (item.getD j 0 + key.getD ((i + j) % key.length) 0) = true := by
  rw [List.forall_mem_iff_getElem]
  simp only [List.length_zipWith, List.length_map, List.length_range, Nat.min_self, List.getElem_zipWith,
    List.getElem_map, List.getElem_range]
  exact forall₂_congr fun j hj => by rw [List.getD_eq_getElem _ _ hj]

/-- ROUND_CP under a non-empty key raises 0xE3 where a sum is no scalar value, and nothing else (spec R119, R122). -/
theorem roundCp_unencodable (dg : DigestFn) {item key : Units} {i : Nat} (hk : key ≠ []) (e : Engine)
    (h : ∃ j < item.length, isScalar (item.getD j 0 + key.getD ((i + j) % key.length) 0) = false) :
    roundCp dg item i key e = .error .unencodable := by
  unfold roundCp
  rw [extractUnits_ok hk, bind_ok, addCp_ok (by simp), bind_ok, utf8_error fun hs => ?_, bind_error]
  obtain ⟨j, hj, hf⟩ := h
  rw [(mixed_scalar item key i).mp hs j hj] at hf
  cases hf

/-- ROUND_CP under a non-empty key with scalar sums answers (spec R119). -/
theorem roundCp_scalar (dg : DigestFn) {item key : Units} {i : Nat} (hk : key ≠ []) (e : Engine)
    (h : ∀ j < item.length, isScalar (item.getD j 0 + key.getD ((i + j) % key.length) 0) = true) :
    ∃ m, roundCp dg item i key e = .ok m :=
  ⟨_, roundCp_ok dg item i hk e (utf8_ok ((mixed_scalar item key i).mpr h)).1⟩

/-- So ROUND_CP under an ASCII key on ASCII text never raises (spec R119, R138). -/
theorem roundCp_ascii (dg : DigestFn) (i : Nat) (e : Engine) {x key : Units} (hk : key ≠ [])
    (ha : ∀ c ∈ key, c < 0x80) (hx : ∀ c ∈ x, c < 0x80) : ∃ m, roundCp dg x i key e = .ok m := by
  refine roundCp_scalar dg hk e fun j hj => ?_
  have hlt : (i + j) % key.length < key.length := Nat.mod_lt _ (List.length_pos_iff.mpr hk)
  rw [List.getD_eq_getElem _ _ hj, List.getD_eq_getElem _ _ hlt, isScalar_iff]
  have h1 := hx _ (List.getElem_mem hj)
  have h2 := ha _ (List.getElem_mem hlt)
  omega

/-! ## The balanced cores -/

variable {f : Nat → Units → Except ErrCode Units}

/-- One more round of the balanced encryption. -/
theorem balEncRounds_succ {n : Nat} {p q : Units × Units} (h : balEncRounds f (n + 1) p = .ok q) :
    ∃ l r m, balEncRounds f n p = .ok (l, r) ∧ f n r = .ok m ∧ l.length = m.length ∧
      q = (r, List.zipWith (· ^^^ ·) l m) := by
  unfold balEncRounds at h
  obtain ⟨⟨l, r⟩, h1, h⟩ := bind_eq_ok.mp h
  obtain ⟨m, h2, h⟩ := bind_eq_ok.mp h
  obtain ⟨r', h3, h⟩ := bind_eq_ok.mp h
  obtain ⟨hl, rfl⟩ := xorUnits_eq_ok h3
  cases h
  exact ⟨l, r, m, h1, h2, hl, rfl⟩

/-- The decrypt rounds take the encrypt rounds back (spec R137). -/
theorem balDecRounds_of_balEncRounds {n : Nat} {p q : Units × Units} (h : balEncRounds f n p = .ok q) :
    balDecRounds f n q = .ok p := by
  induction n generalizing q with
  | zero => cases h; rfl
  | succ n ih =>
    obtain ⟨l, r, m, h1, h2, hl, rfl⟩ := balEncRounds_succ h
    unfold balDecRounds
    simp only [h2, bind_ok]
    rw [xorUnits_ok (by simp [hl]), bind_ok, zipWith_xor_cancel hl]
    exact ih h1

/-- A balanced encryption ends with the error of the first round that raises (spec R135). -/
theorem balEncRounds_error {i n : Nat} {p : Units × Units} {l r : Units} {e : ErrCode} (hi : i < n)
    (h : balEncRounds f i p = .ok (l, r)) (he : f i r = .error e) : balEncRounds f n p = .error e := by
  induction n with
  | zero => omega
  | succ n ih =>
    unfold balEncRounds
    rcases Nat.lt_succ_iff_lt_or_eq.mp hi with hi | rfl
    · rw [ih hi, bind_error]
    · simp only [h, bind_ok, he, bind_error]

/-- So does a balanced decryption, whose rounds run from n-1 down to 0 (spec R136). -/
theorem balDecRounds_error {i n : Nat} {p : Units × Units} {b a : Units} {e : ErrCode} (hi : i < n)
    (h : balDecRounds (fun k => f (k + i + 1)) (n - i - 1) p = .ok (b, a)) (he : f i b = .error e) :
    balDecRounds f n p = .error e := by
  obtain ⟨d, rfl⟩ : ∃ d, n = d + i + 1 := ⟨n - i - 1, by omega⟩
  rw [show d + i + 1 - i - 1 = d by omega] at h
  clear hi
  induction d generalizing p with
  | zero =>
    cases h
    unfold balDecRounds
    simp only [Nat.zero_add, he, bind_error]
  | succ d ih =>
    rw [show d + 1 + i + 1 = (d + i + 1) + 1 by omega]
    unfold balDecRounds at h ⊢
    obtain ⟨m, h1, h⟩ := bind_eq_ok.mp h
    obtain ⟨t, h2, h⟩ := bind_eq_ok.mp h
    simp only [h1, bind_ok, h2]
    exact ih h

/-- The halves of the balanced encryption keep their lengths, and keep what XOR with a mask keeps (spec R138). -/
theorem balEncRounds_keeps (hf : IsMask f) {P : Nat → Prop} (hP : ∀ c m, P c → m < 0x80 → P (c ^^^ m)) {n : Nat}
    {p q : Units × Units} (hl : p.1.length = p.2.length) (hp : (∀ c ∈ p.1, P c) ∧ ∀ c ∈ p.2, P c)
    (h : balEncRounds f n p = .ok q) :
    q.1.length = p.1.length ∧ q.2.length = p.1.length ∧ (∀ c ∈ q.1, P c) ∧ ∀ c ∈ q.2, P c := by
  induction n generalizing q with
  | zero => cases h; exact ⟨rfl, hl.symm, hp⟩
  | succ n ih =>
    obtain ⟨l, r, m, h1, h2, hlm, rfl⟩ := balEncRounds_succ h
    obtain ⟨i1, i2, i3, i4⟩ := ih h1
    have := hf.length h2
    exact ⟨i2, by simp_all, i4, zipWith_xor_forall hP i3 (hf.small h2)⟩

/-- Where every round function on such a half answers, the balanced encryption answers. -/
theorem balEncRounds_total (hf : IsMask f) {P : Nat → Prop} (hP : ∀ c m, P c → m < 0x80 → P (c ^^^ m)) (n : Nat)
    (ht : ∀ i < n, ∀ x : Units, (∀ c ∈ x, P c) → ∃ m, f i x = .ok m) {p : Units × Units}
    (hl : p.1.length = p.2.length) (hp : (∀ c ∈ p.1, P c) ∧ ∀ c ∈ p.2, P c) : ∃ q, balEncRounds f n p = .ok q := by
  induction n with
  | zero => exact ⟨p, rfl⟩
  | succ n ih =>
    obtain ⟨⟨l, r⟩, hq⟩ := ih fun i hi => ht i (by omega)
    obtain ⟨k1, k2, k3, k4⟩ := balEncRounds_keeps hf hP hl hp hq
    obtain ⟨m, hm⟩ := ht n (by omega) r k4
    have := hf.length hm
    exact ⟨_, by unfold balEncRounds; simp only [hq, bind_ok, hm]; rw [xorUnits_ok (by simp_all)]; rfl⟩

/-- The decrypt rounds answer likewise, and keep lengths and ranges. -/
theorem balDecRounds_total (hf : IsMask f) {P : Nat → Prop} (hP : ∀ c m, P c → m < 0x80 → P (c ^^^ m)) (n : Nat)
    (ht : ∀ i < n, ∀ x : Units, (∀ c ∈ x, P c) → ∃ m, f i x = .ok m) {p : Units × Units}
    (hl : p.1.length = p.2.length) (hp : (∀ c ∈ p.1, P c) ∧ ∀ c ∈ p.2, P c) :
    ∃ q, balDecRounds f n p = .ok q ∧ q.1.length = p.1.length ∧ q.2.length = p.1.length ∧
      (∀ c ∈ q.1, P c) ∧ ∀ c ∈ q.2, P c := by
  induction n generalizing p with
  | zero => exact ⟨p, rfl, rfl, hl.symm, hp⟩
  | succ n ih =>
    obtain ⟨b, a⟩ := p
    obtain ⟨m, hm⟩ := ht n (by omega) b hp.1
    have hml := hf.length hm
    have hx : xorUnits a m = .ok (List.zipWith (· ^^^ ·) a m) := xorUnits_ok (by simp_all)
    obtain ⟨q, h1, h2, h3, h4, h5⟩ := ih (fun i hi => ht i (by omega)) (p := (List.zipWith (· ^^^ ·) a m, b))
      (by simp_all) ⟨zipWith_xor_forall hP hp.2 (hf.small hm), hp.1⟩
    refine ⟨q, ?_, ?_, ?_, h4, h5⟩
    · unfold balDecRounds
      simp only [hm, bind_ok, hx, h1]
    · simp_all
    · simp_all

/-! ## The format-preserving cores -/

theorem extendIf_length (c : Prop) [Decidable c] (v : Units) :
    (extendIf c v).length = v.length + if c then 1 else 0 := by
  unfold extendIf
  split <;> simp

/-- One round of the FPE encryption, where the mask exists: the left half XORed with the mask of the extended right half
(spec R147). -/
theorem fpeEncRound_eq (hf : IsMask f) {i : Nat} {l r m : Units} (h1 : l.length ≤ r.length + 1)
    (h2 : r.length ≤ l.length + 1) (hm : f i (extendIf (r.length < l.length) r) = .ok m) :
    fpeEncRound f i (l, r) = .ok (r, List.zipWith (· ^^^ ·) l (m.take l.length)) := by
  have hml := hf.length hm
  have hx : (extendIf (r.length < l.length) r).length = max l.length r.length := by
    rw [extendIf_length]
    split <;> omega
  rw [hx] at hml
  unfold fpeEncRound
  simp only [hm, bind_ok]
  by_cases hc : l.length + 1 = m.length
  · rw [extendIf, if_pos hc, xorUnits_ok (by simp [hc]), bind_ok, if_pos hc]
    congr 2
    have e : m = m.take l.length ++ m.drop l.length := (List.take_append_drop _ _).symm
    have e2 : (m.drop l.length).length = 1 := by simp; omega
    obtain ⟨y, hy⟩ := List.length_eq_one_iff.mp e2
    rw [hy] at e
    conv => lhs; rw [e]
    rw [List.zipWith_append (by simp; omega)]
    simp
  · rw [extendIf, if_neg hc, xorUnits_ok (by omega), bind_ok, if_neg hc, List.take_of_length_le (by omega)]

/-- One round of the FPE decryption (spec R150). -/
theorem fpeDecRound_eq (hf : IsMask f) {i : Nat} {l r m : Units} (h2 : r.length ≤ l.length + 1)
    (hm : f i (extendIf (l.length < r.length) l) = .ok m) :
    fpeDecRound f i (l, r) = .ok (List.zipWith (· ^^^ ·) r (m.take r.length), l) := by
  have hml := hf.length hm
  have hx : r.length ≤ (extendIf (l.length < r.length) l).length := by
    rw [extendIf_length]
    split <;> omega
  unfold fpeDecRound
  simp only [hm, bind_ok]
  rw [xorUnits_ok (by simp; omega)]
  rfl

/-- A round on halves whose lengths differ by at most one, and its mirror: each takes the other back (spec R151). -/
theorem fpeEncRound_spec (hf : IsMask f) (ht : ∀ i x, ∃ m, f i x = .ok m) {P : Nat → Prop}
    (hP : ∀ c m, P c → m < 0x80 → P (c ^^^ m)) (i : Nat) {l r : Units} (h1 : l.length ≤ r.length + 1)
    (h2 : r.length ≤ l.length + 1) :
    ∃ nR, fpeEncRound f i (l, r) = .ok (r, nR) ∧ nR.length = l.length ∧ fpeDecRound f i (r, nR) = .ok (l, r) ∧
      ((∀ c ∈ l, P c) → ∀ c ∈ nR, P c) := by
  obtain ⟨m, hm⟩ := ht i (extendIf (r.length < l.length) r)
  have hml := hf.length hm
  have hx : l.length ≤ (extendIf (r.length < l.length) r).length := by
    rw [extendIf_length]
    split <;> omega
  have hn : (List.zipWith (· ^^^ ·) l (m.take l.length)).length = l.length := by simp; omega
  refine ⟨_, fpeEncRound_eq hf h1 h2 hm, hn, ?_, fun hl => zipWith_xor_forall hP hl fun c hc =>
    hf.small hm c (List.mem_of_mem_take hc)⟩
  have := fpeDecRound_eq hf (i := i) (l := r) (r := List.zipWith (· ^^^ ·) l (m.take l.length)) (m := m) (by omega)
    (by simpa only [hn] using hm)
  rw [this, hn, zipWith_xor_cancel (by simp; omega)]

theorem fpeDecRound_spec (hf : IsMask f) (ht : ∀ i x, ∃ m, f i x = .ok m) {P : Nat → Prop}
    (hP : ∀ c m, P c → m < 0x80 → P (c ^^^ m)) (i : Nat) {l r : Units} (h1 : l.length ≤ r.length + 1)
    (h2 : r.length ≤ l.length + 1) :
    ∃ q, fpeDecRound f i (l, r) = .ok (q, l) ∧ q.length = r.length ∧ fpeEncRound f i (q, l) = .ok (l, r) ∧
      ((∀ c ∈ r, P c) → ∀ c ∈ q, P c) := by
  obtain ⟨m, hm⟩ := ht i (extendIf (l.length < r.length) l)
  have hml := hf.length hm
  have hx : r.length ≤ (extendIf (l.length < r.length) l).length := by
    rw [extendIf_length]
    split <;> omega
  have hn : (List.zipWith (· ^^^ ·) r (m.take r.length)).length = r.length := by simp; omega
  refine ⟨_, fpeDecRound_eq hf h2 hm, hn, ?_, fun hr => zipWith_xor_forall hP hr fun c hc =>
    hf.small hm c (List.mem_of_mem_take hc)⟩
  have := fpeEncRound_eq hf (i := i) (l := List.zipWith (· ^^^ ·) r (m.take r.length)) (r := l) (m := m) (by omega)
    (by omega) (by simpa only [hn] using hm)
  rw [this, hn, zipWith_xor_cancel (by simp; omega)]

/-! ## The codec and integer buffers -/

theorem b256EncUnits_length (t b : Units) : (b256EncUnits t b).length = b.length := List.length_map _

/-- The look-up of a table entry, entries being distinct (spec R126 (a)). -/
theorem idxOf?_getD {t : Units} (h : tableOk t) {x : Nat} (hx : x < 256) : t.idxOf? (t.getD x 0) = some x := by
  have hx : x < t.length := by rw [h.1]; exact hx
  rw [List.getD_eq_getElem _ _ hx, List.idxOf?_eq_some_iff]
  refine ⟨hx, rfl, fun j hj he => ?_⟩
  have := (h.2.1.getElem_inj_iff (hi := hj.trans hx) (hj := hx)).mp he
  omega

/-- What the look-up finds is the entry. -/
theorem getD_of_idxOf? {t : Units} {c x : Nat} (h : t.idxOf? c = some x) : t.getD x 0 = c := by
  obtain ⟨hx, he, -⟩ := List.idxOf?_eq_some_iff.mp h
  rw [List.getD_eq_getElem _ _ hx, he]

theorem idxOf?_lt {t : Units} {c x : Nat} (h : t.idxOf? c = some x) : x < t.length :=
  (List.idxOf?_eq_some_iff.mp h).1

/-- B256DEC's result is bytes (spec R128). -/
theorem b256DecUnits_bytes {t s b : Units} (ht : t.length = 256) (h : b256DecUnits t s = .ok b) :
    ∀ x ∈ b, x < 256 := by
  induction s generalizing b with
  | nil => cases h; simp
  | cons c cs ih =>
    unfold b256DecUnits at h
    split at h
    · cases h
    · rename_i x hx
      obtain ⟨b', h', rfl⟩ := map_eq_ok.mp h
      have := idxOf?_lt hx
      intro y hy
      rcases List.mem_cons.mp hy with rfl | hy
      · omega
      · exact ih h' y hy

/-- The errors of B256DEC (spec R128). -/
theorem b256DecUnits_eq_error {t s : Units} {e : ErrCode} (h : b256DecUnits t s = .error e) : e = .ctBadChar := by
  induction s with
  | nil => cases h
  | cons c cs ih =>
    unfold b256DecUnits at h
    split at h
    · cases h; rfl
    · exact ih (map_eq_error.mp h)

theorem b256DecUnits_length {t s b : Units} (h : b256DecUnits t s = .ok b) : b.length = s.length := by
  induction s generalizing b with
  | nil => cases h; rfl
  | cons c cs ih =>
    unfold b256DecUnits at h
    split at h
    · cases h
    · obtain ⟨b', h', rfl⟩ := map_eq_ok.mp h
      simp [ih h']

@[simp] theorem beBytes_length (w x : Nat) : (beBytes w x).length = w := by simp [beBytes]

theorem beBytes_bytes (w x : Nat) : ∀ b ∈ beBytes w x, b < 256 := by
  intro b hb
  obtain ⟨j, -, rfl⟩ := List.mem_map.mp hb
  rw [show x >>> (8 * (w - 1 - j)) &&& 0xFF = x >>> (8 * (w - 1 - j)) % 256 from
    Nat.and_two_pow_sub_one_eq_mod _ 8]
  exact Nat.mod_lt _ (by decide)

theorem unBe_append (a : Units) (x : Nat) : unBe (a ++ [x]) = unBe a * 256 + x := by simp [unBe]

theorem beBytes_succ (w x : Nat) : beBytes (w + 1) x = beBytes w (x / 256) ++ [x % 256] := by
  unfold beBytes
  rw [List.range_succ, List.map_append]
  congr 1
  · refine List.map_congr_left fun j hj => ?_
    have hj := List.mem_range.mp hj
    rw [show w + 1 - 1 - j = (w - 1 - j) + 1 by omega, Nat.shiftRight_eq_div_pow, Nat.shiftRight_eq_div_pow,
      Nat.div_div_eq_div_mul, show 8 * (w - 1 - j + 1) = 8 + 8 * (w - 1 - j) by omega, pow_add]
    rfl
  · simp only [List.map_cons, List.map_nil, Nat.add_sub_cancel, Nat.sub_self, Nat.mul_zero, Nat.shiftRight_zero]
    rw [show x &&& 0xFF = x % 256 from Nat.and_two_pow_sub_one_eq_mod x 8]

end Sys2Proof.Machine
end

