-- ==== Sys2Proof/Laws/Encoding.lean ====
section
/-! SUPPORT. The fields of a word and the word of some fields are each other's inverse, and what a word that decodes
looks like. -/

namespace Sys2Proof

theorem RawCmd.pack_bit (r : RawCmd) (n : Nat) : r.pack.getLsbD n =
    if n < 8 then r.op.getLsbD n else if n < 9 then r.f.getLsbD (n - 8) else if n < 10 then r.m.getLsbD (n - 9)
    else if n < 12 then r.w.getLsbD (n - 10) else if n < 14 then r.v.getLsbD (n - 12)
    else r.rsv.getLsbD (n - 14) := by
  simp only [RawCmd.pack, BitVec.getLsbD_append, Nat.sub_sub]
  split_ifs <;> first | rfl | omega

theorem slice_bit (w : Word) (a k n : Nat) (h : a ≤ n) (hk : n - a < k) :
    (w.extractLsb' a k).getLsbD (n - a) = w.getLsbD n := by
  rw [BitVec.getLsbD_extractLsb', show a + (n - a) = n by omega]
  simp [hk]

/-- The word of a word's fields is the word (spec R71). -/
@[simp] theorem pack_fieldsOf (w : Word) : (fieldsOf w).pack = w := by
  apply BitVec.eq_of_getLsbD_eq
  intro n hn
  rw [RawCmd.pack_bit]
  simp only [fieldsOf]
  split_ifs
  · exact slice_bit w 0 8 n (by omega) (by omega)
  · exact slice_bit w 8 1 n (by omega) (by omega)
  · exact slice_bit w 9 1 n (by omega) (by omega)
  · exact slice_bit w 10 2 n (by omega) (by omega)
  · exact slice_bit w 12 2 n (by omega) (by omega)
  · exact slice_bit w 14 18 n (by omega) (by omega)

theorem pack_slice (r : RawCmd) (a k : Nat) {x : BitVec k}
    (h : ∀ n < k, r.pack.getLsbD (a + n) = x.getLsbD n) : r.pack.extractLsb' a k = x := by
  apply BitVec.eq_of_getLsbD_eq
  intro n hn
  rw [BitVec.getLsbD_extractLsb', h n hn]
  simp [hn]

/-- The fields of the word of some fields are the fields (spec R71). -/
@[simp] theorem fieldsOf_pack (r : RawCmd) : fieldsOf r.pack = r := by
  have e : ∀ {k} (x : BitVec k) (m n : Nat), m = n → x.getLsbD m = x.getLsbD n := fun _ _ _ h => h ▸ rfl
  have h1 : r.pack.extractLsb' 0 8 = r.op := pack_slice r 0 8 fun n hn => by
    rw [RawCmd.pack_bit, if_pos (by omega)]; exact e _ _ _ (by omega)
  have h2 : r.pack.extractLsb' 8 1 = r.f := pack_slice r 8 1 fun n hn => by
    rw [RawCmd.pack_bit, if_neg (by omega), if_pos (by omega)]; exact e _ _ _ (by omega)
  have h3 : r.pack.extractLsb' 9 1 = r.m := pack_slice r 9 1 fun n hn => by
    rw [RawCmd.pack_bit, if_neg (by omega), if_neg (by omega), if_pos (by omega)]; exact e _ _ _ (by omega)
  have h4 : r.pack.extractLsb' 10 2 = r.w := pack_slice r 10 2 fun n hn => by
    rw [RawCmd.pack_bit, if_neg (by omega), if_neg (by omega), if_neg (by omega), if_pos (by omega)]
    exact e _ _ _ (by omega)
  have h5 : r.pack.extractLsb' 12 2 = r.v := pack_slice r 12 2 fun n hn => by
    rw [RawCmd.pack_bit, if_neg (by omega), if_neg (by omega), if_neg (by omega), if_neg (by omega),
      if_pos (by omega)]
    exact e _ _ _ (by omega)
  have h6 : r.pack.extractLsb' 14 18 = r.rsv := pack_slice r 14 18 fun n hn => by
    rw [RawCmd.pack_bit, if_neg (by omega), if_neg (by omega), if_neg (by omega), if_neg (by omega),
      if_neg (by omega)]
    exact e _ _ _ (by omega)
  simp only [fieldsOf, h1, h2, h3, h4, h5, h6]

/-- What the decoder answers rests on the fields alone. -/
theorem decode_pack (r : RawCmd) : decode r.pack = decodeRaw r := congrArg decodeRaw (fieldsOf_pack r)

theorem modeOf_bits (b : BitVec 1) : (modeOf b).bits = b := by revert b; decide

theorem formOf_bits (b : BitVec 1) : (formOf b).bits = b := by revert b; decide

theorem widthOf_bits (b : BitVec 2) : (widthOf b).bits = b := by revert b; decide

@[simp] theorem modeOf_of_bits (m : Mode) : modeOf m.bits = m := by cases m <;> rfl

@[simp] theorem formOf_of_bits (f : Form) : formOf f.bits = f := by cases f <;> rfl

@[simp] theorem widthOf_of_bits (w : Width) : widthOf w.bits = w := by cases w <;> rfl

end Sys2Proof
end

