-- ==== Sys2Proof/Laws/Operands.lean ====
section
/-! SUPPORT. What the operand checks answer, and on which fields of the state they rest. -/

namespace Sys2Proof.Machine

/-! ## The input vector (spec R82, R83) -/

@[simp] theorem State.inUnits_length (s : State) : s.inUnits.length = s.ilen.toNat := by simp [inUnits]

theorem State.inUnits_getD (s : State) {j : Nat} (h : j < s.ilen.toNat) :
    s.inUnits.getD j 0 = (s.ibufWord j).toNat := by
  rw [List.getD_eq_getElem _ _ (by simpa using h)]
  simp [inUnits]

theorem State.mem_inUnits {s : State} {x : Nat} : x ∈ s.inUnits ↔ ∃ j < s.ilen.toNat, (s.ibufWord j).toNat = x := by
  simp [inUnits]

theorem State.forall_inUnits {s : State} {p : Nat → Bool} :
    (∀ x ∈ s.inUnits, p x = true) ↔ ∀ j < s.ilen.toNat, p (s.ibufWord j).toNat = true := by
  simp [inUnits]

theorem State.inVec_ok {s : State} (h : s.ilen.toNat ≤ s.params.ibufDepth) : s.inVec = .ok s.inUnits :=
  if_neg (Nat.not_lt.mpr h)

theorem State.inVec_error {s : State} (h : s.params.ibufDepth < s.ilen.toNat) : s.inVec = .error .capacityIn :=
  if_pos h

theorem checkUnits_ok {p : Nat → Bool} {v : Units} (h : ∀ x ∈ v, p x = true) : checkUnits p v = .ok v :=
  if_pos (List.all_eq_true.mpr h)

theorem checkUnits_error {p : Nat → Bool} {v : Units} (h : ¬ ∀ x ∈ v, p x = true) :
    checkUnits p v = .error .badUnit := if_neg (mt List.all_eq_true.mp h)

/-- The checked input of every command that reads IBUF with a range check. -/
theorem State.checkedIn_ok {s : State} {p : Nat → Bool} (h : s.inputOk p) :
    (s.inVec >>= checkUnits p) = .ok s.inUnits := by
  rw [inVec_ok h.1, bind_ok, checkUnits_ok (forall_inUnits.mpr h.2)]

theorem State.checkedIn_capacity {s : State} {p : Nat → Bool} (h : s.params.ibufDepth < s.ilen.toNat) :
    (s.inVec >>= checkUnits p) = .error .capacityIn := by rw [inVec_error h, bind_error]

theorem State.checkedIn_badUnit {s : State} {p : Nat → Bool} (h : s.ilen.toNat ≤ s.params.ibufDepth)
    (hp : ∃ j < s.ilen.toNat, p (s.ibufWord j).toNat = false) : (s.inVec >>= checkUnits p) = .error .badUnit := by
  obtain ⟨j, hj, hp⟩ := hp
  rw [inVec_ok h, bind_ok, checkUnits_error fun hv => ?_]
  have := forall_inUnits.mp hv j hj
  rw [hp] at this
  cases this

/-- Everything a checked input can be. -/
theorem State.checkedIn_cases (s : State) (p : Nat → Bool) :
    (s.inputOk p ∧ (s.inVec >>= checkUnits p) = .ok s.inUnits) ∨
    (s.inVec >>= checkUnits p) = .error .capacityIn ∨ (s.inVec >>= checkUnits p) = .error .badUnit := by
  rcases Nat.lt_or_ge s.params.ibufDepth s.ilen.toNat with h | h
  · exact .inr (.inl (checkedIn_capacity h))
  · by_cases hp : ∀ j < s.ilen.toNat, p (s.ibufWord j).toNat = true
    · exact .inl ⟨⟨h, hp⟩, checkedIn_ok ⟨h, hp⟩⟩
    · simp only [not_forall] at hp
      obtain ⟨j, hj, hp⟩ := hp
      exact .inr (.inr (checkedIn_badUnit h ⟨j, hj, by simpa using hp⟩))

theorem State.bytesIn_eq (s : State) : s.bytesIn = (s.inVec >>= checkUnits isByte) := rfl

theorem State.cpIn_eq (s : State) : s.cpIn = (s.inVec >>= checkUnits isScalar) := rfl

theorem State.bytesIn_ok {s : State} (h : s.inputOk isByte) : s.bytesIn = .ok s.inUnits := checkedIn_ok h

theorem State.cpIn_ok {s : State} (h : s.inputOk isScalar) : s.cpIn = .ok s.inUnits := checkedIn_ok h

/-- An input vector that passed its check is in the range of the check. -/
theorem State.inputOk.forall_mem {s : State} {p : Nat → Bool} (h : s.inputOk p) : ∀ x ∈ s.inUnits, p x = true :=
  forall_inUnits.mpr h.2

/-! ## Key slots (spec R84) -/

@[simp] theorem State.keyCps_length (s : State) (k : Nat) : (s.keyCps k).length = (s.keyLenOf k).toNat := by
  simp [keyCps]

theorem State.forall_keyCps {s : State} {k : Nat} {p : Nat → Prop} :
    (∀ x ∈ s.keyCps k, p x) ↔ ∀ j < (s.keyLenOf k).toNat, p (s.keyWord k j).toNat := by
  simp [keyCps]

theorem State.keySlot_ok {s : State} {k : Nat} (h : s.slotOk k) : s.keySlot k = .ok (s.keyCps k) := by
  rw [keySlot, if_neg (Nat.not_le.mpr h.1), if_neg (Nat.not_lt.mpr h.2)]

theorem State.keySlot_error {s : State} {k : Nat} (h : ¬ s.slotOk k) : s.keySlot k = .error .capacityIn := by
  unfold keySlot
  split_ifs with h1 h2
  · rfl
  · rfl
  · exact absurd ⟨Nat.not_le.mp h1, Nat.not_lt.mp h2⟩ h

/-! ## The engine (spec R27, R116) -/

theorem engineOfNumber_isSome {n : Nat} : (∃ e, engineOfNumber n = some e) ↔ n ≤ 3 := by
  rcases n with _ | _ | _ | _ | n <;> simp [engineOfNumber]

theorem State.engineSel_ok {s : State} {e : Engine} (h : engineOfNumber s.engine.toNat = some e) :
    s.engineSel = .ok e := by rw [engineSel, h]

theorem State.engineSel_error {s : State} (h : 3 < s.engine.toNat) : s.engineSel = .error .engineBad := by
  unfold engineSel
  split
  · rename_i e he
    have := engineOfNumber_isSome.mp ⟨e, he⟩
    omega
  · rfl

/-! ## Configuration (spec R90 to R92) -/

theorem State.checkKey_ok {s : State} {k : Nat} (h : s.keyOk k) : s.checkKey k = .ok () := by
  unfold checkKey
  rw [keySlot_ok h.1, bind_ok, if_neg (by simpa using Nat.pos_iff_ne_zero.mp h.2.1),
    if_pos (List.all_eq_true.mpr (forall_keyCps.mpr h.2.2))]

/-- Everything the check of a key slot can answer. -/
theorem State.checkKey_cases (s : State) (k : Nat) :
    (s.keyOk k ∧ s.checkKey k = .ok ()) ∨ (¬ s.slotOk k ∧ s.checkKey k = .error .capacityIn) ∨
    (s.slotOk k ∧ (s.keyLenOf k).toNat = 0 ∧ s.checkKey k = .error .keyEmpty) ∨
    (s.slotOk k ∧ 0 < (s.keyLenOf k).toNat ∧ (∃ j < (s.keyLenOf k).toNat, isScalar (s.keyWord k j).toNat = false) ∧
      s.checkKey k = .error .badUnit) := by
  by_cases hs : s.slotOk k
  · rcases Nat.eq_zero_or_pos (s.keyLenOf k).toNat with h0 | h0
    · refine .inr (.inr (.inl ⟨hs, h0, ?_⟩))
      unfold checkKey
      rw [keySlot_ok hs, bind_ok, if_pos (by simpa using h0)]
    · by_cases hc : ∀ j < (s.keyLenOf k).toNat, isScalar (s.keyWord k j).toNat = true
      · exact .inl ⟨⟨hs, h0, hc⟩, checkKey_ok ⟨hs, h0, hc⟩⟩
      · refine .inr (.inr (.inr ⟨hs, h0, ?_, ?_⟩))
        · simp only [not_forall] at hc
          obtain ⟨j, hj, hc⟩ := hc
          exact ⟨j, hj, by simpa using hc⟩
        · unfold checkKey
          rw [keySlot_ok hs, bind_ok, if_neg (by simpa using Nat.pos_iff_ne_zero.mp h0),
            if_neg (mt List.all_eq_true.mp (mt forall_keyCps.mp hc))]
  · refine .inr (.inl ⟨hs, ?_⟩)
    unfold checkKey
    rw [keySlot_error hs, bind_error]

theorem State.keyOk_of_checkKey {s : State} {k : Nat} (h : s.checkKey k = .ok ()) : s.keyOk k := by
  rcases s.checkKey_cases k with ⟨hk, -⟩ | ⟨-, he⟩ | ⟨-, -, he⟩ | ⟨-, -, -, he⟩
  · exact hk
  all_goals rw [h] at he; cases he

theorem State.checkKeys_eq_ok {s : State} {ks : List Nat} : s.checkKeys ks = .ok () ↔ ∀ k ∈ ks, s.keyOk k := by
  induction ks with
  | nil => simp [checkKeys]
  | cons k ks ih =>
    rw [checkKeys, bind_eq_ok, List.forall_mem_cons, ← ih]
    constructor
    · rintro ⟨⟨⟩, h1, h2⟩
      exact ⟨keyOk_of_checkKey h1, h2⟩
    · rintro ⟨h1, h2⟩
      exact ⟨(), checkKey_ok h1, h2⟩

/-- The first slot that fails decides (spec R91). -/
theorem State.checkKeys_error {s : State} {ks₁ ks₂ : List Nat} {k : Nat} {e : ErrCode} (h1 : ∀ x ∈ ks₁, s.keyOk x)
    (h2 : s.checkKey k = .error e) : s.checkKeys (ks₁ ++ k :: ks₂) = .error e := by
  induction ks₁ with
  | nil => rw [List.nil_append, checkKeys, h2, bind_error]
  | cons x ks ih =>
    rw [List.cons_append, checkKeys, checkKey_ok (h1 x (by simp)), bind_ok]
    exact ih fun y hy => h1 y (by simp [hy])

/-- What a latched configuration grants (spec R86, R144, R160). -/
theorem State.checkConfig_eq_ok {s : State} {v : Variant} (h : s.checkConfig v = .ok ()) :
    (v = .bal → s.keyOk 0 ∧ 2 ≤ s.rounds.toNat) ∧
    (v = .mk → 2 ≤ s.nkeys.toNat ∧ s.nkeys.toNat ≤ s.params.nkeysMax ∧ ∀ k < s.nkeys.toNat, s.keyOk k) ∧
    (v = .fpe → s.engine.toNat ≤ 3 ∧ s.keyOk 0 ∧ 2 ≤ s.rounds.toNat) := by
  have hr : ∀ {u}, s.checkRounds = .ok u → 2 ≤ s.rounds.toNat := by
    intro u hu
    unfold checkRounds at hu
    split_ifs at hu
    omega
  cases v with
  | bal =>
    refine ⟨fun _ => ?_, nofun, nofun⟩
    obtain ⟨⟨⟩, h1, h2⟩ := bind_eq_ok.mp h
    exact ⟨keyOk_of_checkKey h1, hr h2⟩
  | mk =>
    refine ⟨nofun, fun _ => ?_, nofun⟩
    simp only [checkConfig, checkMk] at h
    split_ifs at h with h1 h2
    exact ⟨by omega, by omega, fun k hk => checkKeys_eq_ok.mp h k (by simpa using hk)⟩
  | fpe =>
    refine ⟨nofun, nofun, fun _ => ?_⟩
    obtain ⟨e, h1, h⟩ := bind_eq_ok.mp h
    obtain ⟨⟨⟩, h2, h3⟩ := bind_eq_ok.mp h
    refine ⟨?_, keyOk_of_checkKey h2, hr h3⟩
    by_contra hc
    rw [engineSel_error (by omega)] at h1
    cases h1

/-- The checks of CONFIGURE rest on the configuration registers and the key memory alone. -/
theorem State.checkConfig_congr {s t : State} (v : Variant) (h1 : t.params = s.params) (h2 : t.keyLen = s.keyLen)
    (h3 : t.key = s.key) (h4 : t.memEpoch = s.memEpoch) (h5 : t.rounds = s.rounds) (h6 : t.nkeys = s.nkeys)
    (h7 : t.engine = s.engine) : t.checkConfig v = s.checkConfig v := by
  have hu : t.unwritten .key = s.unwritten .key := by funext a; simp [unwritten, h4]
  have hk : ∀ k, t.keySlot k = s.keySlot k := fun k => by
    simp [keySlot, keyLenOf, keyCps, keyWord, hu, h1, h2, h3]
  have hc : ∀ k, t.checkKey k = s.checkKey k := fun k => by simp [checkKey, hk]
  have hks : ∀ ks, t.checkKeys ks = s.checkKeys ks := fun ks => by
    induction ks with
    | nil => rfl
    | cons k ks ih => simp [checkKeys, hc, ih]
  cases v <;> simp [checkConfig, checkBal, checkMk, checkFpe, checkRounds, engineSel, hc, hks, h1, h5, h6, h7]

/-! ## The latched configuration -/

/-- A key string that passed CONFIGURE is not empty (spec R90). -/
theorem State.keyOk.cps_ne_nil {s : State} {k : Nat} (h : s.keyOk k) : s.keyCps k ≠ [] := by
  rw [← List.length_pos_iff, keyCps_length]
  exact h.2.1

/-- The round function of an FPE configuration: ROUND_B under KB(0) with ENGINE (spec R146). -/
theorem State.fpeRound_eq {s : State} {kb : Units} {e : Engine} (hk : utf8 (s.keyCps 0) = .ok kb)
    (he : engineOfNumber s.engine.toNat = some e) (dg : DigestFn) :
    s.fpeRound dg = fun i x => roundB dg x i kb e := by
  funext i x
  rw [fpeRound, keyBytes, hk, bind_ok, engineSel_ok he, bind_ok]

end Sys2Proof.Machine
end

