-- ==== Sys2Proof/Laws/Parameters.lean ====
section
/-! SUPPORT. The base-256 table and the parameters of State.reset are legal. -/

namespace Sys2Proof.Machine

theorem candidateTable_conforms : tableOk candidateTable := by
  have h : candidateTable.IsChain (· < ·) := by decide +kernel
  refine ⟨by decide +kernel, (List.isChain_iff_pairwise.mp h).imp Nat.ne_of_lt, ?_, by decide +kernel⟩
  have : candidateTable.all (fun c => isScalar c && !isControl c) = true := by decide +kernel
  simpa [List.all_eq_true] using this

/-- Whatever the unknown table is, the FRE's table conforms. -/
theorem b256Table_conforms : tableOk b256Table := by
  unfold b256Table
  split
  · assumption
  · exact candidateTable_conforms

theorem defaultParams_legal : defaultParams.legal :=
  ⟨by decide, by decide, by decide, by decide, by decide, b256Table_conforms⟩

end Sys2Proof.Machine
end

