-- ==== Sys2Proof/Laws/PerInstr.lean ====
section
/-! SUPPORT. A statement for all commands, made command by command: the family TableRow. -/

namespace Sys2Proof.Laws.TableRow

/-- The command is well-formed (R76), and its word is one of the row of spec R75 that is its own: its match value under
the row's mask. -/
def Statement (i : Instr) : Prop :=
  i.wf = true ∧ ∃ r ∈ Machine.commandRows, r.1 = encode (match i with
    | .extract _ => .extract .cp
    | .add _ => .add .cp
    | .xor _ => .xor .cp
    | .digest _ => .digest .raw
    | .round _ => .round .cp
    | .fpeEnc _ => .fpeEnc .raw
    | .fpeDec _ => .fpeDec .raw
    | .fpeEncStr _ => .fpeEncStr .raw
    | .fpeDecStr _ => .fpeDecStr .raw
    | .numEnc _ => .numEnc .auto
    | .numDec _ => .numDec .auto
    | j => j) ∧ encode i &&& r.2 = r.1

theorem nop : Statement .nop := by unfold Statement; decide

theorem configureBal : Statement .configureBal := by unfold Statement; decide

theorem configureMk : Statement .configureMk := by unfold Statement; decide

theorem configureFpe : Statement .configureFpe := by unfold Statement; decide

theorem extract (m : Mode) : Statement (.extract m) := by cases m <;> (unfold Statement; decide)

theorem add (m : Mode) : Statement (.add m) := by cases m <;> (unfold Statement; decide)

theorem xor (m : Mode) : Statement (.xor m) := by cases m <;> (unfold Statement; decide)

theorem pad : Statement .pad := by unfold Statement; decide

theorem unpad : Statement .unpad := by unfold Statement; decide

theorem digest (f : Form) : Statement (.digest f) := by cases f <;> (unfold Statement; decide)

theorem round (m : Mode) : Statement (.round m) := by cases m <;> (unfold Statement; decide)

theorem b256Enc : Statement .b256Enc := by unfold Statement; decide

theorem b256Dec : Statement .b256Dec := by unfold Statement; decide

theorem balEnc : Statement .balEnc := by unfold Statement; decide

theorem balDec : Statement .balDec := by unfold Statement; decide

theorem mkEnc : Statement .mkEnc := by unfold Statement; decide

theorem mkDec : Statement .mkDec := by unfold Statement; decide

theorem fpeEnc (f : Form) : Statement (.fpeEnc f) := by cases f <;> (unfold Statement; decide)

theorem fpeDec (f : Form) : Statement (.fpeDec f) := by cases f <;> (unfold Statement; decide)

theorem fpeEncStr (f : Form) : Statement (.fpeEncStr f) := by cases f <;> (unfold Statement; decide)

theorem fpeDecStr (f : Form) : Statement (.fpeDecStr f) := by cases f <;> (unfold Statement; decide)

theorem numEnc (w : Width) : Statement (.numEnc w) := by cases w <;> (unfold Statement; decide)

theorem numDec (w : Width) : Statement (.numDec w) := by cases w <;> (unfold Statement; decide)

end Sys2Proof.Laws.TableRow
end

