-- ==== Sys2Proof/Laws/Step.lean ====
section
/-! SUPPORT. Whose turn it is, what the ENGINE's turn does, and one step at the head of a run. -/

namespace Sys2Proof.Machine

theorem step_engine {s : State} (hb : s.status.busy = true) (h : s.engineDelay = 0 ∨ s.hostQueue = []) :
    step s = s.engineStep := by
  have : s.engineTurn = true := by rcases h with h | h <;> simp [State.engineTurn, hb, h]
  rw [step, if_pos this]

theorem step_host {s : State} (h : s.status.busy = false ∨ (s.engineDelay ≠ 0 ∧ s.hostQueue ≠ [])) :
    step s = s.hostTurn := by
  have : s.engineTurn = false := by
    rcases h with h | ⟨h, h2⟩
    · simp [State.engineTurn, h]
    · simp [State.engineTurn, h, h2]
  rw [step, if_neg (by simp [this])]

/-- The outside world's turn takes the first event of the queue. -/
theorem step_event {s : State} {op : HostOp} {q : List HostOp} (hq : s.hostQueue = op :: q)
    (h : s.status.busy = false ∨ s.engineDelay ≠ 0) :
    step s = State.hostEvent { s with hostQueue := q, engineDelay := s.engineDelay - 1 } op := by
  rw [step_host (h.imp id fun h => ⟨h, by simp [hq]⟩), State.hostTurn, hq]

/-- An idle FRE with `rst` released performs the read at the head of the queue. -/
theorem step_read {s : State} {off : Nat} {q : List HostOp} (hb : s.status.busy = false) (hr : s.rst = false)
    (h4 : (s.params.base + off) % 4 = 0) (hw : off < 0x10000)
    (hq : s.hostQueue = .read (s.params.base + off) 4 :: q) :
    step s = .next (State.hostRead { s with hostQueue := q, engineDelay := s.engineDelay - 1 } off) := by
  rw [step_event hq (.inl hb)]
  have e : s.params.base + off - s.params.base = off := by omega
  have h := State.access_ok (s := { s with hostQueue := q, engineDelay := s.engineDelay - 1 })
    (a := s.params.base + off) (p := State.hostRead { s with hostQueue := q, engineDelay := s.engineDelay - 1 }) hr
    (Nat.le_add_right _ _) (Nat.add_lt_add_left hw _) h4
  exact h.trans (by rw [e])

/-- So it does with a write. -/
theorem step_write {s : State} {off : Nat} {v : Word} {q : List HostOp} (hb : s.status.busy = false)
    (hr : s.rst = false) (h4 : (s.params.base + off) % 4 = 0) (hw : off < 0x10000)
    (hq : s.hostQueue = .write (s.params.base + off) 4 v :: q) :
    step s = .next (State.hostWrite { s with hostQueue := q, engineDelay := s.engineDelay - 1 } off v) := by
  rw [step_event hq (.inl hb)]
  have e : s.params.base + off - s.params.base = off := by omega
  have h := State.access_ok (s := { s with hostQueue := q, engineDelay := s.engineDelay - 1 })
    (a := s.params.base + off)
    (p := fun x => State.hostWrite { s with hostQueue := q, engineDelay := s.engineDelay - 1 } x v) hr
    (Nat.le_add_right _ _) (Nat.add_lt_add_left hw _) h4
  exact h.trans (by rw [e])

/-- An idle FRE with `rst` released answers a `readout` with OLEN, and OLEN reads of OBUF come next. -/
theorem step_readOut {s : State} {q : List HostOp} (hb : s.status.busy = false) (hr : s.rst = false)
    (hq : s.hostQueue = .readOut :: q) :
    step s = .next { s.reply (.data (s.olen.setWidth 32)) with
      hostQueue := (List.range s.olen.toNat).map (readObufOp s.params.base) ++ q,
      engineDelay := s.engineDelay - 1 } := by
  rw [step_event hq (.inl hb)]
  have h := State.hostReadOut_idle (s := { s with hostQueue := q, engineDelay := s.engineDelay - 1 }) hb
  show (if s.rst then _ else Host.Outcome.next
    (State.hostReadOut { s with hostQueue := q, engineDelay := s.engineDelay - 1 })) = _
  rw [if_neg (by simp [hr]), h]
  rfl

/-- The ENGINE's step always completes the pending command (spec R46). -/
theorem State.engineStep_completes (s : State) :
    ∃ t, s.engineStep = .next t ∧ t.status.busy = false ∧ t.status.done = true ∧ t.hostQueue = s.hostQueue ∧
      t.rst = s.rst ∧ t.params = s.params := by
  unfold engineStep
  split
  · rename_i i _
    rcases exec_cases i s with ⟨-, h⟩ | ⟨-, ⟨_, -, -, h⟩ | ⟨e, h⟩⟩ | ⟨-, ⟨_, _, -, h⟩ | ⟨e, h⟩⟩ |
      ⟨-, ⟨_, -, -, h⟩ | ⟨e, h⟩⟩ <;> exact ⟨_, h, rfl, rfl, rfl, rfl, rfl⟩
  · exact ⟨_, rfl, rfl, rfl, rfl, rfl, rfl⟩

/-- On a word that decodes to no command the ENGINE's step is the error 0xE0 (spec R46, R76). -/
theorem State.engineStep_illegal {s : State} {e : Illegal} (h : decode s.cmd = .error e) :
    s.engineStep = .next (s.raise .illegal .illegalCmd) := by
  rw [engineStep, h]

/-- The values between two records that differ by reads are the words read, in their order (spec R80). -/
theorem valuesRead_data (ws : List Word) (log : List BusReply) :
    valuesRead log ((ws.map BusReply.data).reverse ++ log) = ws.map (·.toNat) := by
  have hn : ((ws.map BusReply.data).reverse ++ log).length - log.length = (ws.map BusReply.data).reverse.length := by
    rw [List.length_append, Nat.add_sub_cancel]
  unfold valuesRead
  rw [hn, List.take_left, List.reverse_reverse, List.filterMap_map]
  exact congrFun List.filterMap_eq_map' ws

theorem run_zero (s : State) : Host.Core.run Sys2Proof.core 0 s = .next s := rfl

/-- A run that begins with a step that goes on. -/
theorem run_succ {s t : State} (h : step s = .next t) (k : Nat) :
    Host.Core.run Sys2Proof.core (k + 1) s = Host.Core.run Sys2Proof.core k t := by
  simp only [Host.Core.run]
  rw [show Sys2Proof.core.step s = .next t from h]

end Sys2Proof.Machine
end

