-- ==== Sys2Proof/Tests/Sha256.lean ====
section
/-! SUPPORT. SHA-256 as a digest port, for the tests alone: the model leaves every digest uninterpreted (log 5), and the
spec's vectors of 95_test_vectors.md are stated for the standard algorithm (00_scope.md R10, 93_implementation_defined.md
G2, G3). A word is a number below 2^32; eight words can stand in one number, the first in its top bits. -/

-- One theorem at a time: each waiting kernel evaluation would hold a thread with its whole stack.
set_option Elab.async false

namespace Sys2Proof.Tests

/-- The low 32 bits. -/
def low (x : Nat) : Nat := x % 2 ^ 32

/-- The words of a number of `n` words, the first from the top. -/
def unpack (x : Nat) : Nat → List Nat
  | 0 => []
  | n + 1 => low (x >>> (32 * n)) :: unpack x n

/-- The exclusive or of a start value with a word turned right by each distance of a list. -/
def turned (x start : Nat) (distances : List Nat) : Nat :=
  let twice := x * 2 ^ 32 + x
  distances.foldl (fun acc n => acc ^^^ low (twice >>> n)) start

/-- The fractional parts of the cube roots of the first 64 primes, eight words to a row. -/
def cubeRoots : List Nat :=
  [0x428a2f9871374491b5c0fbcfe9b5dba53956c25b59f111f1923f82a4ab1c5ed5,
   0xd807aa9812835b01243185be550c7dc372be5d7480deb1fe9bdc06a7c19bf174,
   0xe49b69c1efbe47860fc19dc6240ca1cc2de92c6f4a7484aa5cb0a9dc76f988da,
   0x983e5152a831c66db00327c8bf597fc7c6e00bf3d5a7914706ca635114292967,
   0x27b70a852e1b21384d2c6dfc53380d13650a7354766a0abb81c2c92e92722c85,
   0xa2bfe8a1a81a664bc24b8b70c76c51a3d192e819d6990624f40e3585106aa070,
   0x19a4c1161e376c082748774c34b0bcb5391c0cb34ed8aa4a5b9cca4f682e6ff3,
   0x748f82ee78a5636f84c878148cc7020890befffaa4506cebbef9a3f7c67178f2]

/-- The fractional parts of the square roots of the first eight primes: the first chaining value. -/
def squareRoots : Nat := 0x6a09e667bb67ae853c6ef372a54ff53a510e527f9b05688c1f83d9ab5be0cd19

/-- The window of sixteen schedule words after one more round: the oldest goes, the new one comes last. -/
def slide (w : List Nat) : List Nat :=
  w.tail ++ [low (turned (w.getD 1 0) (w.getD 1 0 >>> 3) [7, 18] + turned (w.getD 14 0) (w.getD 14 0 >>> 10) [17, 19] +
    w.headD 0 + w.getD 9 0)]

/-- One round on the eight working words; `k` is the sum of the round's constant and its schedule word. -/
def stir (k : Nat) : List Nat → List Nat
  | [p0, p1, p2, p3, p4, p5, p6, p7] =>
    let x := k + p7 + turned p4 0 [25, 6, 11] + (p6 ^^^ (p4 &&& (p5 ^^^ p6)))
    let y := turned p0 0 [22, 2, 13] + ((p0 &&& (p1 ||| p2)) ||| (p1 &&& p2))
    [low (x + y), p0, p1, p2, low (p3 + x), p4, p5, p6]
  | other => other

/-- All rounds: the window and the working words go along the constants. -/
def stirAll : List Nat → List Nat → List Nat → List Nat
  | [], _, v => v
  | k :: ks, w, v => stirAll ks (slide w) (stir (k + w.headD 0) v)

/-- The chaining value after `n` blocks of sixteen words. -/
def chain : Nat → List Nat → List Nat → List Nat
  | 0, _, v => v
  | n + 1, m, v =>
    let out := stirAll (cubeRoots.flatMap (unpack · 8)) (m.take 16) v
    chain n (m.drop 16) (List.zipWith (fun x y => low (x + y)) v out)

/-- A byte string as one number, with the closing bit, the zeros and the length in bits, and its count of blocks. -/
def closed (m : List Nat) : Nat × Nat :=
  let blocks := (m.length + 72) / 64
  let body := m.foldl (fun acc x => acc * 256 + x) 0
  ((body * 256 + 0x80) <<< (8 * (64 * blocks - m.length - 1)) + 8 * m.length, blocks)

/-- The digest as its eight words. -/
def sha256 (m : List Nat) : List Nat :=
  let (x, n) := closed m
  chain n (unpack x (16 * n)) (unpack squareRoots 8)

/-- The digest port with SHA-256 behind every engine number; the tests use it for engine 2. -/
def shaPort : DigestFn := fun _ m =>
  let whole := (sha256 (m.map (·.toNat))).foldl (fun acc x => acc * 2 ^ 32 + x) 0
  Vector.ofFn fun (j : Fin 32) => BitVec.ofNat 8 (whole >>> (8 * (31 - j.val)))

/-- The SHA-256 digest of the empty message begins e3b0c442 and ends 7852b855 (95_test_vectors.md §1). -/
theorem test_sha256_empty : (sha256 []).head? = some 0xe3b0c442 ∧ (sha256 []).getLast? = some 0x7852b855 := by
  decide +kernel

/-- The SHA-256 digest of "Edgewhere" begins c0c77f22 and ends 7e86917c (V-DIG2). -/
theorem test_sha256_edgewhere :
    (let d := sha256 [0x45, 0x64, 0x67, 0x65, 0x77, 0x68, 0x65, 0x72, 0x65]
     d.head? = some 0xc0c77f22 ∧ d.getLast? = some 0x7e86917c) := by decide +kernel

end Sys2Proof.Tests
end

