-- ==== Sys2Proof/Tests/Slice0.lean ====
section
/-! SUPPORT. The tests. Expected values come from spec/ (95_test_vectors.md, or the rule named), never from the model.
A cipher result is tested with SHA-256 behind the digest port, by the function the meaning calls with `Config.digest`. -/

-- One theorem at a time: each waiting kernel evaluation would hold a thread with its whole stack.
set_option Elab.async false

namespace Sys2Proof.Tests

open Machine

/-! ## Well-formedness: an ill-formed word for each check (R76, 95 §2.1) -/

/-- (a) OP 0x02 is not assigned. -/
theorem test_wf_unassigned_op : (fieldsOf 0x00000002).opAssigned = false ∧ (fieldsOf 0x00000002).legal = false := by
  decide

/-- (b) RSV bit 16, and RSV bit 14 on BAL_ENC. -/
theorem test_wf_reserved_bits :
    (fieldsOf 0x00010000).rsvZero = false ∧ (fieldsOf 0x00010000).legal = false ∧
      (fieldsOf 0x00004020).rsvZero = false ∧ (fieldsOf 0x00004020).legal = false := by decide

/-- (c) F set on BAL_ENC; M set on NUM_ENC. -/
theorem test_wf_unlisted_field :
    (fieldsOf 0x00000120).unlistedZero = false ∧ (fieldsOf 0x00000120).legal = false ∧
      (fieldsOf 0x00000230).unlistedZero = false ∧ (fieldsOf 0x00000230).legal = false := by decide

/-- (d) CONFIGURE with V = 11. -/
theorem test_wf_reserved_variant :
    (fieldsOf 0x00003001).variantOk = false ∧ (fieldsOf 0x00003001).legal = false := by decide

/-! ## Decoding: a word of every row, bits written out from R71, R74, R75: RSV, V, W, M, F, OP -/

theorem test_decode_control :
    decode 0b000000000000000000_00_00_0_0_00000000 = .ok .nop ∧
    decode 0b000000000000000000_00_00_0_0_00000001 = .ok .configureBal ∧
    decode 0b000000000000000000_01_00_0_0_00000001 = .ok .configureMk ∧
    decode 0b000000000000000000_10_00_0_0_00000001 = .ok .configureFpe := by decide

theorem test_decode_utilities :
    decode 0b000000000000000000_00_00_1_0_00001000 = .ok (.extract .byte) ∧
    decode 0b000000000000000000_00_00_0_0_00001001 = .ok (.add .cp) ∧
    decode 0b000000000000000000_00_00_1_0_00001010 = .ok (.xor .byte) ∧
    decode 0b000000000000000000_00_00_0_0_00001011 = .ok .pad ∧
    decode 0b000000000000000000_00_00_0_0_00001100 = .ok .unpad := by decide

theorem test_decode_round_and_codec :
    decode 0b000000000000000000_00_00_0_1_00010000 = .ok (.digest .rendered) ∧
    decode 0b000000000000000000_00_00_1_0_00010001 = .ok (.round .byte) ∧
    decode 0b000000000000000000_00_00_0_0_00011000 = .ok .b256Enc ∧
    decode 0b000000000000000000_00_00_0_0_00011001 = .ok .b256Dec := by decide

theorem test_decode_balanced :
    decode 0b000000000000000000_00_00_0_0_00100000 = .ok .balEnc ∧
    decode 0b000000000000000000_00_00_0_0_00100001 = .ok .balDec ∧
    decode 0b000000000000000000_00_00_0_0_00100010 = .ok .mkEnc ∧
    decode 0b000000000000000000_00_00_0_0_00100011 = .ok .mkDec := by decide

theorem test_decode_fpe :
    decode 0b000000000000000000_00_00_0_1_00101000 = .ok (.fpeEnc .rendered) ∧
    decode 0b000000000000000000_00_00_0_0_00101001 = .ok (.fpeDec .raw) ∧
    decode 0b000000000000000000_00_00_0_1_00101010 = .ok (.fpeEncStr .rendered) ∧
    decode 0b000000000000000000_00_00_0_0_00101011 = .ok (.fpeDecStr .raw) := by decide

theorem test_decode_number :
    decode 0b000000000000000000_00_00_0_0_00110000 = .ok (.numEnc .auto) ∧
    decode 0b000000000000000000_00_01_0_0_00110000 = .ok (.numEnc .two) ∧
    decode 0b000000000000000000_00_10_0_0_00110000 = .ok (.numEnc .four) ∧
    decode 0b000000000000000000_00_11_0_0_00110001 = .ok (.numDec .eight) := by decide

theorem test_table_word :
    decodeTableWord 32 0x00000208 = some (.extract .byte) ∧ decodeTableWord 32 0x00003001 = none := by decide

/-! ## The states the tests run from -/

/-- Small capacities, a window base other than 0, and a conforming table that can be evaluated. -/
def params : Params where
  base := 0x10000
  ibufDepth := 64
  obufDepth := 64
  keyDepth := 64
  nkeysMax := 3
  b256 := candidateTable

theorem params_legal : params.legal :=
  ⟨by decide, by decide, by decide, by decide, by decide, candidateTable_conforms⟩

/-- A FRE with these key strings in its slots and this input vector. -/
def given (keys : List Units) (input : Units) : State :=
  { State.reset with
    params := params
    keyLen := (List.range 3).map fun k => BitVec.ofNat 16 (keys.getD k []).length
    key := (List.range 3).foldl (fun m k => Memory.writeUnits m (keyAddr k 0) (keys.getD k [])) []
    ilen := BitVec.ofNat 16 input.length
    ibuf := Memory.writeUnits [] 0 input }

/-- The same FRE with a configuration of variant `v` latched, of `n` rounds. -/
def latchedAs (v : Variant) (n : Word) (s : State) : State :=
  { s with
    engine := 2, rounds := n, nkeys := n.setWidth 8
    status := { s.status with cfgValid := true, cfgVar := v } }

/-- The output vector of a step, where it has none raised an error. -/
def outputOf : Outcome → Option Units
  | .next t => if t.status.err then none else some ((List.range t.olen.toNat).map fun j => (t.obufWord j).toNat)
  | _ => none

/-- STATUS and ERRCODE after a step, and OLEN. -/
def endOf : Outcome → Option (Nat × Nat × Nat)
  | .next t => some (t.status.word.toNat, t.errCode.toNat, t.olen.toNat)
  | _ => none

/-- NUM_OUT and NUM_WIDTH after a step. -/
def numberOf : Outcome → Option (Nat × Nat)
  | .next t => some (t.numOut, t.numWidth.toNat)
  | _ => none

/-- K1 of 95_test_vectors.md. -/
def keyK1 : Units :=
  [0x38, 0x65, 0x64, 0x39, 0x64, 0x63, 0x63, 0x31, 0x37, 0x30, 0x31, 0x63, 0x30, 0x36, 0x34, 0x66,
   0x30, 0x66, 0x64, 0x37, 0x61, 0x65, 0x32, 0x33, 0x35, 0x66, 0x31, 0x35, 0x31, 0x34, 0x33, 0x66] ++
  [0x39, 0x38, 0x39, 0x39, 0x32, 0x30, 0x65, 0x30, 0x65, 0x65, 0x39, 0x36, 0x35, 0x38, 0x62, 0x62,
   0x37, 0x38, 0x38, 0x32, 0x63, 0x38, 0x64, 0x37, 0x64, 0x35, 0x66, 0x30, 0x35, 0x36, 0x39, 0x32]

/-- K2 of 95_test_vectors.md. -/
def keyK2 : Units :=
  [0x73, 0x6f, 0x6d, 0x65, 0x2d, 0x33, 0x32, 0x2d, 0x62, 0x79, 0x74, 0x65, 0x2d, 0x6c, 0x6f, 0x6e,
   0x67, 0x2d, 0x6b, 0x65, 0x79, 0x2d, 0x74, 0x6f, 0x2d, 0x62, 0x65, 0x2d, 0x73, 0x61, 0x66, 0x65]

def alpha : Units := [0x61, 0x6c, 0x70, 0x68, 0x61]
def beta : Units := [0x62, 0x65, 0x74, 0x61]
def edgewhere : Units := [0x45, 0x64, 0x67, 0x65, 0x77, 0x68, 0x65, 0x72, 0x65]

/-! ## Control (95 §2.2) -/

theorem test_nop_on_reset : endOf (exec .nop State.reset) = some (0x00000002, 0, 0) := by decide +kernel

theorem test_configure_bal_empty_key : endOf (exec .configureBal State.reset) = some (0x00000006, 0x12, 0) := by
  decide +kernel

theorem test_configure_bal_surrogate_key :
    endOf (exec .configureBal { given [[0xD800]] [] with rounds := 10 }) = some (0x00000006, 0xE4, 0) := by
  decide +kernel

theorem test_configure_mk : endOf (exec .configureMk { given [alpha, beta] [] with nkeys := 2 }) =
    some (0x00000032, 0, 0) := by decide +kernel

theorem test_configure_mk_empty_slot : endOf (exec .configureMk { given [alpha] [] with nkeys := 2 }) =
    some (0x00000006, 0x12, 0) := by decide +kernel

theorem test_configure_fpe_on_reset : endOf (exec .configureFpe State.reset) = some (0x00000006, 0x11, 0) := by
  decide +kernel

theorem test_configure_fpe : endOf (exec .configureFpe { given [[0x6B]] [] with engine := 2, rounds := 128 }) =
    some (0x00000052, 0, 0) := by decide +kernel

/-! ## Utilities (95 §2.3) -/

theorem test_extract_wraps : outputOf (exec (.extract .cp) { given [[97, 98, 99]] [] with arg0 := 4, arg1 := 5 }) =
    some [98, 99, 97, 98, 99] := by decide +kernel

theorem test_extract_bytes : outputOf (exec (.extract .byte) { given [[0xE9]] [] with arg1 := 3 }) =
    some [0xC3, 0xA9, 0xC3] := by decide +kernel

theorem test_add_bytes : outputOf (exec (.add .byte) { given [] [100, 200, 50, 100] with arg0 := 2 }) =
    some [194, 150, 44] := by decide +kernel

theorem test_add_code_points : outputOf (exec (.add .cp) { given [] [0x10FFFF, 0x10FFFF] with arg0 := 1 }) =
    some [0x21FFFE] := by decide +kernel

theorem test_xor : outputOf (exec (.xor .byte) { given [] [0x45, 0x64, 0x33, 0x61] with arg0 := 2 }) =
    some [0x76, 0x05] := by decide +kernel

theorem test_xor_long_operand : endOf (exec (.xor .cp) { given [] [1, 2] with arg0 := 3 }) =
    some (0x00000006, 0x21, 0) := by decide +kernel

theorem test_pad : outputOf (exec .pad (given [] [97, 98, 99])) = some [2, 97, 98, 99] := by decide +kernel

theorem test_pad_keeps_markers : outputOf (exec .pad (given [] [2, 97, 98])) = some [2, 2, 97, 98] := by
  decide +kernel

theorem test_unpad : outputOf (exec .unpad (given [] [2, 2, 2, 97, 2])) = some [97, 2] := by decide +kernel

/-- An odd text that begins with the marker pads to what the text with one marker more pads to, and loses all of them
(R106, R107, R200; log 24). -/
theorem test_pad_merges : padUnits [2, 97, 98] = [2, 2, 97, 98] ∧ padUnits [2, 2, 97, 98] = [2, 2, 97, 98] ∧
    unpadUnits [2, 2, 97, 98] = [97, 98] := by decide

theorem test_unpad_all : outputOf (exec .unpad (given [] [2, 2])) = some [] := by decide +kernel

/-! ## Digest and round (95 §2.4) -/

theorem test_digest_hex : (State.digestResult shaPort { given [] edgewhere with engine := 2 } .rendered).map (·.take 8) =
    .ok [0x63, 0x30, 0x63, 0x37, 0x37, 0x66, 0x32, 0x32] := by decide +kernel

theorem test_digest_engine : endOf (exec (.digest .raw) { given [] [] with engine := 4 }) =
    some (0x00000006, 0x11, 0) := by decide +kernel

theorem test_round_bytes :
    State.roundResult shaPort { given [keyK2] [0x45, 0x64, 0x67, 0x65] with engine := 2, arg0 := 5 } .byte =
      .ok [0x33, 0x66, 0x61, 0x30] := by decide +kernel

theorem test_round_code_points :
    roundCp shaPort [0x77, 0x68, 0x65, 0x72, 0x65] 9 keyK1 .sha256 = .ok [0x61, 0x36, 0x30, 0x32, 0x32] := by
  decide +kernel

/-! ## Codec (95 §2.5) -/

theorem test_b256_enc : outputOf (exec .b256Enc (given [] [42, 93, 7, 2, 79, 90, 80, 20, 9])) =
    some [0x4B, 0xA1, 0x28, 0x23, 0x71, 0x7C, 0x72, 0x35, 0x2A] := by decide +kernel

theorem test_b256_dec : outputOf (exec .b256Dec (given [] [0x4B, 0xA1, 0x28, 0x23, 0x71, 0x7C, 0x72, 0x35, 0x2A])) =
    some [42, 93, 7, 2, 79, 90, 80, 20, 9] := by decide +kernel

theorem test_b256_dec_marker : endOf (exec .b256Dec (given [] [0x4B, 0x02])) = some (0x00000006, 0x32, 0) := by
  decide +kernel

/-! ## Balanced and multi-key ciphers (95 §2.6, §2.7) -/

theorem test_bal_enc_two_rounds : balCoreEnc (fun i x => roundCp shaPort x i keyK1 .sha256) 2 edgewhere =
    .ok [0x3a, 0x75, 0x07, 0x53, 0x01, 0x4e, 0x5b, 0x52, 0x10, 0x52] := by decide +kernel

/-- The inverse of the line above (R137). -/
theorem test_bal_dec_two_rounds :
    balCoreDec (fun i x => roundCp shaPort x i keyK1 .sha256) 2
      [0x3a, 0x75, 0x07, 0x53, 0x01, 0x4e, 0x5b, 0x52, 0x10, 0x52] = .ok edgewhere := by decide +kernel

theorem test_bal_dec_odd_before_utf8 : endOf (exec .balDec (latchedAs .bal 10 (given [[0x6B]] [0xc3]))) =
    some (0x00000016, 0x31, 0) := by decide +kernel

theorem test_mk_enc_two_keys : State.mkEncResult shaPort (latchedAs .mk 2 (given [alpha, beta] [0x61, 0x62])) =
    .ok [0x55, 0x06] := by decide +kernel

theorem test_mk_dec_two_keys :
    State.mkDecResult shaPort
      (latchedAs .mk 2 (given [alpha, beta] [0x3b, 0x75, 0x01, 0x03, 0x03, 0x43, 0x5e, 0x55, 0x45, 0x52])) =
      .ok edgewhere := by decide +kernel

/-! ## Format-preserving cipher (95 §2.8, and program P4 with the key "k" and two rounds) -/

theorem test_fpe_core_three_rounds : fpeCoreEnc (fun i x => roundB shaPort x i keyK1 .sha256) 3 edgewhere =
    .ok [79, 92, 7, 22, 92, 78, 103, 49, 98] := by decide +kernel

theorem test_fpe_core_three_rounds_back :
    fpeCoreDec (fun i x => roundB shaPort x i keyK1 .sha256) 3 [79, 92, 7, 22, 92, 78, 103, 49, 98] =
      .ok edgewhere := by decide +kernel

theorem test_fpe_enc : State.fpeEncResult shaPort (latchedAs .fpe 2 (given [[0x6B]] [0x41])) .raw = .ok [0x73] := by
  decide +kernel

/-- The inverse of the line above (R151, R157). -/
theorem test_fpe_dec : State.fpeDecResult shaPort (latchedAs .fpe 2 (given [[0x6B]] [0x73])) .raw = .ok [0x41] := by
  decide +kernel

/-- "A" is its own UTF-8 (R158, R159). -/
theorem test_fpe_enc_str : State.fpeEncStrResult shaPort (latchedAs .fpe 2 (given [[0x6B]] [0x41])) .raw = .ok [0x73] := by
  decide +kernel

theorem test_fpe_dec_str : State.fpeDecStrResult shaPort (latchedAs .fpe 2 (given [[0x6B]] [0x73])) .raw = .ok [0x41] := by
  decide +kernel

theorem test_fpe_dec_str_byte_range : endOf (exec (.fpeDecStr .raw) (latchedAs .fpe 2 (given [[0x6B]] [0x100]))) =
    some (0x00000056, 0xE4, 0) := by decide +kernel

theorem test_fpe_enc_other_variant : endOf (exec (.fpeEnc .raw) (latchedAs .bal 10 (given [[0x6B]] [0x41]))) =
    some (0x00000016, 0xE5, 0) := by decide +kernel

/-! ## Integer variant (95 §2.9) -/

theorem test_num_enc_zero : numberOf (exec (.numEnc .auto) (latchedAs .fpe 128 (given [[0x6B]] []))) = some (0, 2) := by
  decide +kernel

theorem test_num_enc_magnitude_first :
    endOf (exec (.numEnc .two) { latchedAs .fpe 128 (given [[0x6B]] []) with numIn2 := 1 }) =
      some (0x00000056, 0x41, 0) := by decide +kernel

/-- Zero is a fixed point whatever the width: NUM_WIDTH is W (R165, R168). -/
theorem test_num_dec_zero : numberOf (exec (.numDec .four) (latchedAs .fpe 128 (given [[0x6B]] []))) = some (0, 4) := by
  decide +kernel

/-- The most significant byte is element 0, both ways (R58, R162). -/
theorem test_big_endian_buffers : beBytes 4 0x01020304 = [1, 2, 3, 4] ∧ unBe [1, 2] = 0x0102 := by decide

/-- A core that keeps element 0 and clears the rest keeps the most significant byte (R58): 0x4142 gives 0x4100. -/
theorem test_num_first_element_is_most_significant :
    State.numResult { latchedAs .fpe 2 (given [[0x6B]] []) with numIn0 := 0x4142 } .auto
      (fun b => .ok [b.getD 0 0, 0]) = .ok (0x4100, 2) := by decide +kernel

/-- The buffer is used whole (R162): with a core that swaps its two bytes 0x4142 gives 0x4241. -/
theorem test_num_swapped_bytes :
    State.numResult { latchedAs .fpe 2 (given [[0x6B]] []) with numIn0 := 0x4142 } .auto (fun b => .ok b.reverse) =
      .ok (0x4241, 2) := by decide +kernel

/-! ## Accesses as events (R64) -/

/-- Whether an outcome is a next state with this property. -/
def nextHas (r : Outcome) (p : State → Bool) : Bool :=
  match r with
  | .next t => p t
  | _ => false

/-- From reset a CMD write to BASE + 0x010 is accepted (R45): BUSY = 1 and CMD holds the word. -/
theorem test_cmd_write_event_starts_a_command :
    nextHas (step { State.reset with hostQueue := [.write (State.reset.params.base + 0x010) 4 0x208] })
      (fun t => t.status.busy && t.cmd == 0x208) = true := by decide +kernel

/-- A W1C of OVR is honoured while busy (R24). -/
theorem test_w1c_event_while_busy :
    nextHas (step { State.reset with
        status := { Status.reset with busy := true, ovr := true }, engineDelay := 1,
        hostQueue := [.write (State.reset.params.base + 0x008) 4 8] })
      (fun t => t.status.busy && !t.status.ovr) = true := by decide +kernel

/-! ## Host scripts (R80) -/

/-- "é" in UTF-8 is C3 A9 (R102): ILEN 2, then the two bytes. -/
theorem test_script_loadin_bytes : scriptLoadInBytes 0x10000 [0xE9] =
    [.write 0x10028 4 2, .write 0x14000 4 0xC3, .write 0x14004 4 0xA9] := by decide

/-- `readout` with OLEN = 2 asks for OBUF[0] and OBUF[1]. -/
theorem test_script_readout : (match step { given [] [] with olen := 2, hostQueue := scriptReadOut } with
    | .next t => some (t.hostQueue, t.hostLog)
    | _ => none) = some ([.read 0x18000 4, .read 0x18004 4], [.data 2]) := by decide

/-- x = b * 2^32 + a, where a was read first. -/
theorem test_script_readnum : readNumValue [.ack] [.data 1, .data 5, .ack] = some 0x100000005 := by decide

end Sys2Proof.Tests
end

