-- ==== Sys2Proof/Tests/Witnesses.lean ====
section
/-! SUPPORT. For every statement with hypotheses, a state and operands that meet them, clause by clause, at the ends of
their ranges. `met_X` belongs to `Obligations.X`. -/

-- One theorem at a time: each waiting kernel evaluation would hold a thread with its whole stack.
set_option Elab.async false

namespace Sys2Proof.Tests

open Machine

/-! ## The states -/

/-- A key that is one code unit, "k". -/
def keyK : Units := [0x6B]

/-- An idle FRE with keys "k" and input "AB". -/
def idle : State := given [keyK, keyK, keyK] [0x41, 0x42]

/-- The same, busy with the command of this word. -/
def busyWith (w : Nat) : State := idle.withFetchWord 32 w

/-- A FRE of the largest capacities. -/
def largest : State := { idle with params := { params with ibufDepth := 4096, obufDepth := 8192, keyDepth := 1024, nkeysMax := 255 } }

/-- A configured FRE of variant `v` with two rounds and this input. -/
def configured (v : Variant) (input : Units) : State := latchedAs v 2 (given [keyK, keyK, keyK] input)

theorem exists_next {r : Outcome} {p : State → Bool} (h : nextHas r p = true) : ∃ t, r = .next t ∧ p t = true := by
  cases r with
  | next t => exact ⟨t, rfl, h⟩
  | fault f => cases h
  | refused r => cases h

theorem given_inUnits (keys : List Units) {c : Units} (hl : c.length < 65536) (hc : ∀ x ∈ c, x < 2 ^ 32) :
    (given keys c).inUnits = c := by
  have hi : (given keys c).ilen.toNat = c.length := by
    simp only [given, BitVec.toNat_ofNat]
    omega
  apply List.ext_getElem
  · rw [State.inUnits_length, hi]
  · intro j h1 h2
    have := Memory.readWord_writeUnits [] ((given keys c).unwritten .ibuf) 0 c j h2
    simp only [State.inUnits, List.getElem_map, List.getElem_range, State.ibufWord]
    rw [show (given keys c).ibuf = Memory.writeUnits [] 0 c from rfl, show 4 * j = 0 + 4 * j by omega, this,
      BitVec.toNat_ofNat, Nat.mod_eq_of_lt (hc _ (List.getElem_mem h2))]

theorem inputOk_of_inUnits {s : State} {p : Nat → Bool} (h1 : s.ilen.toNat ≤ s.params.ibufDepth)
    (h2 : ∀ x ∈ s.inUnits, p x = true) : s.inputOk p := ⟨h1, State.forall_inUnits.mp h2⟩

/-- The idle test states are good. -/
theorem good_idle : idle.Good where
  params := params_legal
  slots := rfl
  keyWf := by decide +kernel
  ibufWf := by decide +kernel
  obufWf := by decide
  keyIn := by decide +kernel
  ibufIn := by decide +kernel
  obufIn := by decide
  olenIn := by decide
  busyClear := by decide
  idleInReset := by decide
  codeKnown := .inl rfl
  errHasCode := by decide
  configured := by decide
  unlatched := by decide
  widthKnown := .inl rfl

/-- So are the configured ones, whatever the input. -/
theorem good_configured (v : Variant) {c : Units} (hl : c.length ≤ 64) : (configured v c).Good where
  params := params_legal
  slots := rfl
  keyWf := good_idle.keyWf
  ibufWf := Memory.wf_writeUnits (m := []) (by decide) 0 c
  obufWf := List.Pairwise.nil
  keyIn := good_idle.keyIn
  ibufIn := by
    intro x hx
    rcases Memory.mem_writeUnits hx with h | h
    · show x.1 < 256
      omega
    · cases h
  obufIn := fun _ h => by cases h
  olenIn := Nat.zero_le _
  busyClear := by rintro ⟨⟩
  idleInReset := by rintro ⟨⟩
  codeKnown := .inl rfl
  errHasCode := by rintro ⟨⟩
  configured := fun _ => by
    show (configured v c).checkConfig v = .ok ()
    rw [State.checkConfig_congr (s := configured v []) (t := configured v c) v rfl rfl rfl rfl rfl rfl rfl]
    cases v <;> decide +kernel
  unlatched := by rintro ⟨⟩
  widthKnown := .inl rfl

/-- A configured FRE with an OBUF of 32 words, the smallest. -/
def tight (v : Variant) (input : Units) : State :=
  { configured v input with params := { params with obufDepth := 32 } }

theorem good_tight (v : Variant) {c : Units} (hl : c.length ≤ 64) : (tight v c).Good :=
  { good_configured v hl with
    params := ⟨params_legal.1, params_legal.2.1, (by decide : 32 ≤ 32 ∧ 32 ≤ 8192), params_legal.2.2.2⟩
    olenIn := Nat.zero_le _
    configured := fun _ => by
      show (tight v c).checkConfig v = .ok ()
      rw [State.checkConfig_congr (s := tight v []) (t := tight v c) v rfl rfl rfl rfl rfl rfl rfl]
      cases v <;> decide +kernel }

theorem latched_configured (v : Variant) (c : Units) : (configured v c).latched v := ⟨rfl, rfl⟩

/-! ## The cores under the opaque digest -/

/-- The balanced core under ASCII keys on "AB" gives an output. -/
theorem balCore_gives (dg : DigestFn) (keyf : Nat → Units) (n : Nat) (hk : ∀ i < n, keyf i ≠ [] ∧ ∀ x ∈ keyf i, x < 0x80) :
    ∃ c, balCoreEnc (fun i x => roundCp dg x i (keyf i) .sha256) n [0x41, 0x42] = .ok c ∧ c.length = 2 ∧
      ∀ x ∈ c, x < 0x80 := by
  have hP : ∀ c m, c < 0x80 → m < 0x80 → c ^^^ m < 0x80 := fun c m hc hm => xor_lt_pow (n := 7) hc hm
  have hf := isMask_roundCp dg keyf .sha256
  obtain ⟨q, hq⟩ := balEncRounds_total hf hP n
    (fun i hi x hx => roundCp_ascii dg i .sha256 (hk i hi).1 (hk i hi).2 hx) (p := ([0x41], [0x42])) rfl (by decide)
  obtain ⟨h1, h2, h3, h4⟩ := balEncRounds_keeps hf hP rfl (by decide) hq
  refine ⟨q.1 ++ q.2, ?_, by rw [List.length_append, h1, h2]; rfl,
    fun x hx => (List.mem_append.mp hx).elim (h3 x) (h4 x)⟩
  show (balEncRounds _ n ([0x41], [0x42]) >>= _) = _
  rw [hq, bind_ok]

/-- So does its decryption. -/
theorem balCore_takes (dg : DigestFn) (keyf : Nat → Units) (n : Nat) (hk : ∀ i < n, keyf i ≠ [] ∧ ∀ x ∈ keyf i, x < 0x80) :
    ∃ p, balCoreDec (fun i x => roundCp dg x i (keyf i) .sha256) n [0x41, 0x42] = .ok p ∧ p.length ≤ 2 := by
  have hP : ∀ c m, c < 0x80 → m < 0x80 → c ^^^ m < 0x80 := fun c m hc hm => xor_lt_pow (n := 7) hc hm
  obtain ⟨q, hq, h1, h2, -, -⟩ := balDecRounds_total (isMask_roundCp dg keyf .sha256) hP n
    (fun i hi x hx => roundCp_ascii dg i .sha256 (hk i hi).1 (hk i hi).2 hx) (p := ([0x41], [0x42])) rfl (by decide)
  refine ⟨unpadUnits (q.1 ++ q.2), ?_, ?_⟩
  · show (balDecRounds _ n ([0x41], [0x42]) >>= _) = _
    rw [hq, bind_ok]
  · have := (List.dropWhile_suffix (· == Config.padMark) (l := q.1 ++ q.2)).length_le
    rw [List.length_append, h1, h2] at this
    exact this

/-- The balanced decryption of "éé" under an ASCII key gives two characters from 0x80 on, so no marker to strip. -/
theorem balCore_keeps_two (dg : DigestFn) (keyf : Nat → Units) (n : Nat)
    (hk : ∀ i < n, keyf i ≠ [] ∧ ∀ x ∈ keyf i, x < 0x80) :
    ∃ p, balCoreDec (fun i x => roundCp dg x i (keyf i) .sha256) n [0xE9, 0xE9] = .ok p ∧ p.length = 2 := by
  have hP : ∀ c m, (0x80 ≤ c ∧ c < 0x100) → m < 0x80 → 0x80 ≤ c ^^^ m ∧ c ^^^ m < 0x100 := fun c m hc hm => by
    have h1 := xor_div_128 (c := c) hm
    have h2 := xor_lt_pow (n := 8) hc.2 (by omega : m < 2 ^ 8)
    omega
  obtain ⟨q, hq, h1, h2, h3, -⟩ := balDecRounds_total (isMask_roundCp dg keyf .sha256) hP n
    (fun i hi x hx => roundCp_scalar dg (hk i hi).1 .sha256 fun j hj => by
      have hlt : (i + j) % (keyf i).length < (keyf i).length := Nat.mod_lt _ (List.length_pos_iff.mpr (hk i hi).1)
      rw [List.getD_eq_getElem _ _ hj, List.getD_eq_getElem _ _ hlt, isScalar_iff]
      have := hx _ (List.getElem_mem hj)
      have := (hk i hi).2 _ (List.getElem_mem hlt)
      omega) (p := ([0xE9], [0xE9])) rfl (by decide)
  obtain ⟨_ | ⟨c, l⟩, r⟩ := q
  · cases h1
  refine ⟨(c :: l) ++ r, ?_, by rw [List.length_append, h1, h2]; rfl⟩
  show (balDecRounds _ n ([0xE9], [0xE9]) >>= _) = _
  rw [hq, bind_ok]
  refine congrArg Except.ok (unpadUnits_of_head fun h => ?_)
  have := h3 c (List.mem_cons_self ..)
  obtain rfl : c = Config.padMark := by simpa using h
  exact absurd this.1 (by decide)

/-- Two FPE rounds and back. -/
theorem fpe_two_rounds (dg : DigestFn) {kb : Units} (hk : kb ≠ []) (e : Engine) {p : Units} (hp : p ≠ [])
    (hb : ∀ x ∈ p, x < 256) :
    ∃ c, fpeCoreEnc (fun i x => roundB dg x i kb e) 2 p = .ok c ∧
      fpeCoreDec (fun i x => roundB dg x i kb e) 2 c = .ok p ∧ c.length = p.length ∧ ∀ x ∈ c, x < 256 := by
  have hf := isMask_roundB dg kb e
  have ht : ∀ i x, ∃ m, (fun i x => roundB dg x i kb e) i x = .ok m := fun i x => ⟨_, roundB_ok dg x i hk e⟩
  have hP : ∀ c m, c < 256 → m < 0x80 → c ^^^ m < 256 := fun c m hc hm => xor_lt_pow (n := 8) hc (by omega)
  obtain ⟨l, r, hs⟩ : ∃ l r, splitUnits p = (l, r) := ⟨_, _, rfl⟩
  have hlen := splitUnits_length p
  have happ := splitUnits_append p
  rw [hs] at hlen happ
  simp only at hlen happ
  obtain ⟨n1, e1, l1, d1, p1⟩ := fpeEncRound_spec hf ht hP 0 (l := l) (r := r) (by omega) (by omega)
  obtain ⟨n2, e2, l2, d2, p2⟩ := fpeEncRound_spec hf ht hP 1 (l := r) (r := n1) (by omega) (by omega)
  have hpl : p.length ≠ 0 := by simpa using hp
  have hsum : (n1 ++ n2).length = p.length := by rw [List.length_append]; omega
  refine ⟨n1 ++ n2, ?_, ?_, hsum, ?_⟩
  · unfold fpeCoreEnc
    rw [if_neg hpl, hs]
    simp only [fpeEncRounds, bind_ok, e1, e2]
  · unfold fpeCoreDec
    rw [if_neg (by omega), fpeDecSplit, if_neg (fun h => absurd h.1 (by decide)), splitUnits_of_append (by omega)]
    simp only [fpeDecRounds, bind_ok, d1, d2]
    rw [happ]
  · intro x hx
    rcases List.mem_append.mp hx with h | h
    · exact p1 (fun c hc => hb c (happ ▸ List.mem_append_left _ hc)) x h
    · exact p2 (fun c hc => hb c (happ ▸ List.mem_append_right _ hc)) x h

/-- No UTF-8 begins with 0xFF. -/
theorem utf8_ne_ff (v t : Units) : utf8 v ≠ .ok (0xFF :: t) := by
  intro h
  rcases v with _ | ⟨c, v⟩
  · cases h
  · rw [utf8_cons] at h
    split at h
    · rename_i hc
      obtain ⟨a, -, ha⟩ := map_eq_ok.mp h
      have := ((isScalar_iff c).mp hc).1
      rw [utf8Char_eq this] at ha
      split_ifs at ha <;> simp only [List.cons_append, List.cons.injEq] at ha <;> omega
    · cases h

/-! ## Encoding and the step -/

theorem met_DecodeAndEncodeAreInverse : decode 0x00000C31 = .ok (.numDec .eight) ∧ decode 0 = .ok .nop := by decide

theorem met_StepRunsThePendingCommand :
    ((busyWith 0x208).status.busy = true ∧ (busyWith 0x208).engineDelay = 0 ∧
      decode (busyWith 0x208).cmd = .ok (.extract .byte)) ∧
    (let s : State := { busyWith 0x208 with engineDelay := 5 }
     s.status.busy = true ∧ s.hostQueue = [] ∧ decode s.cmd = .ok (.extract .byte)) ∧
    State.reset.status.busy = false ∧ State.reset.hostQueue = [] ∧
    (let s : State := { busyWith 0 with engineDelay := 1, hostQueue := [.wait] }
     s.engineDelay ≠ 0 ∧ s.hostQueue ≠ [] ∧ s.hostQueue = .wait :: []) ∧
    (let s : State := { State.reset with hostQueue := [.write 0x10010 4 0, .wait] }
     s.status.busy = false ∧ s.hostQueue = .write 0x10010 4 0 :: [.wait]) ∧
    ((busyWith 0x3001).status.busy = true ∧ (busyWith 0x3001).engineDelay = 0 ∧
      decode (busyWith 0x3001).cmd = .error .reservedVariant) ∧
    (let s : State := { busyWith 0x3001 with engineDelay := 5 }; s.status.busy = true ∧ s.hostQueue = []) := by
  refine ⟨by decide, by decide, rfl, rfl, by decide, by decide, by decide, by decide⟩

theorem met_CommandWriteIsAccepted : State.reset.status.busy = false ∧ (fieldsOf 0x00003001).legal = false := by decide

/-! ## The register window -/

/-- The first and last register, the last key word of the last slot, the last IBUF word. -/
theorem met_BusyWindowIgnoresOperandWrites :
    let s : State := { largest.withFetchWord 32 0 with keySel := 254 }
    s.status.busy = true ∧
      (0x010 : Nat) ∈ [0x010, 0x014, 0x018, 0x01C, 0x020, 0x024, 0x028, 0x030, 0x034, 0x038, 0x03C, 0x040, 0x044] ∧
      (1023 < s.params.keyDepth ∧ s.keySel.toNat < s.params.nkeysMax ∧ 0x1000 + 4 * 1023 = 0x1FFC) ∧
      (4095 < s.params.ibufDepth ∧ 0x4000 + 4 * 4095 = 0x7FFC) := by decide

/-- Each range of reserved offsets at both ends; the key window by depth and by slot. -/
theorem met_ReservedOffsetsReadZeroAndIgnoreWrites :
    (0x060 % 4 = 0 ∧ 0x0FFC < 0x1000) ∧ (0x2000 % 4 = 0 ∧ 0x3FFC < 0x4000) ∧
      idle.params.keyDepth ≤ (0x1100 - 0x1000) / 4 ∧
      idle.params.nkeysMax ≤ (State.keySel { idle with keySel := 3 }).toNat ∧
      idle.params.ibufDepth ≤ (0x4100 - 0x4000) / 4 ∧ idle.params.obufDepth ≤ (0x8100 - 0x8000) / 4 ∧
      (0x05C % 4 = 0 ∧ 0xFFFC % 4 = 0) := by decide

theorem met_ConfigurationWritesInvalidate :
    (idle.status.busy = false ∧ idle.keySel.toNat < idle.params.nkeysMax ∧ 63 < idle.params.keyDepth) ∧
    (let s : State := { idle with keySel := 3 }
     s.status.busy = false ∧ s.params.nkeysMax ≤ s.keySel.toNat ∧ 63 < s.params.ibufDepth) ∧
    (let s : State := { idle with rounds := 2 }
     s.status.cfgValid = false ∧ ∃ t, exec .configureBal s = .next t ∧ t.status.cfgValid = true) ∧
    (idle.status.cfgValid = false ∧ ∃ t, idle.hostEvent (.write 0x10028 4 5) = .next t) := by
  refine ⟨by decide, by decide, ⟨rfl, exists_next (p := fun t => t.status.cfgValid) (by decide +kernel)⟩, rfl, _, rfl⟩

theorem met_RegistersStoreOnlyTheirFieldBits :
    let s : State := { idle with keySel := 2 }
    s.status.busy = false ∧ s.keySel.toNat < s.params.nkeysMax ∧ s.keyLen.length = s.params.nkeysMax ∧
      (0xFFFFFFFE : Word).getLsbD 0 = false ∧ (0xFFFFFFFF : Word).getLsbD 0 = true ∧
      State.status { idle with keySel := 3 } = idle.status ∧
      idle.params.nkeysMax ≤ (State.keySel { idle with keySel := 3 }).toNat := by decide

/-- The last word of each window; an output that fills OBUF, with its last word, and an empty one, with the first word. -/
theorem met_BufferWordsReadBack :
    (let s : State := { largest with keySel := 254 }
     s.status.busy = false ∧ 4095 < s.params.ibufDepth ∧ 0 < s.params.ibufDepth ∧ 1023 < s.params.keyDepth ∧
       s.keySel.toNat < s.params.nkeysMax) ∧
    (idle.params.legal ∧ (List.replicate 64 0x10FFFF).length = idle.params.obufDepth ∧
      63 < (List.replicate 64 0x10FFFF).length) ∧ ([] : Units).length ≤ 0 :=
  ⟨by decide, ⟨params_legal, by decide, by decide⟩, by decide⟩

theorem met_ResetLeavesTheStatedValues : (0x00000003 : Word).getLsbD 0 = true := by decide

theorem met_InterruptLineFollowsDone :
    (∃ t, (busyWith 0).engineStep = .next t) ∧ (0x00000002 : Word).getLsbD 1 = true ∧ idle.status.busy = false ∧
      (∃ t, idle.hostEvent (.rst true) = .next t) ∧ (0x00000001 : Word).getLsbD 0 = true ∧
      (0x00000002 : Word).getLsbD 0 = false :=
  ⟨⟨_, rfl⟩, by decide, rfl, ⟨_, rfl⟩, by decide, by decide⟩

/-- An idle FRE and a busy one; the last word of each window; an OBUF read out whole, and an integer. -/
theorem met_ReadsHaveNoSideEffect :
    idle.params.legal ∧ idle.status.busy = false ∧ idle.rst = false ∧ (busyWith 0x22).status.busy = true ∧
    (1023 < largest.params.keyDepth ∧ (State.keySel { largest with keySel := 254 }).toNat < largest.params.nkeysMax) ∧
    4095 < largest.params.ibufDepth ∧ 8191 < largest.params.obufDepth ∧
    (let s : State := { idle with olen := 64, hostQueue := [.readOut, .wait] }
     s.olen.toNat ≤ s.params.obufDepth ∧ s.hostQueue = scriptReadOut ++ [.wait]) ∧
    (let s : State := { idle with hostQueue := [.read 0x10048 4, .read 0x1004C 4, .wait] }
     s.hostQueue = scriptReadNum s.params.base ++ [.wait]) :=
  ⟨params_legal, rfl, rfl, rfl, by decide, by decide, by decide, by decide, by decide⟩

/-- The first and the last word of the window, on an idle FRE and a busy one; a half-word access and a misaligned one inside
the window, an access on each side of it, and one during `rst`. -/
theorem met_RefusedAccessesChangeNothing :
    (idle.rst = false ∧ idle.status.busy = false ∧ (busyWith 0x22).rst = false ∧ (busyWith 0x22).status.busy = true ∧
      ∀ a ∈ [(0x10000 : Nat), 0x1FFFC], idle.params.base ≤ a ∧ a < idle.params.base + 0x10000 ∧ a % 4 = 0) ∧
    (idle.rst = false ∧ idle.params.base ≤ 0x10000 ∧ 0x1FFFE < idle.params.base + 0x10000 ∧
      ¬ (2 = 4 ∧ 0x10000 % 4 = 0) ∧ ¬ (4 = 4 ∧ 0x1FFFE % 4 = 0)) ∧
    (¬ (idle.params.base ≤ 0xFFFC ∧ 0xFFFC < idle.params.base + 0x10000) ∧
      ¬ (idle.params.base ≤ 0x20000 ∧ 0x20000 < idle.params.base + 0x10000)) ∧
    State.rst { idle with rst := true } = true := by decide

/-- A write to ILEN, and a CTRL write that is no reset. -/
theorem met_ResultsStayUntilAcceptOrReset :
    idle.status.busy = false ∧
    (∀ op ∈ [HostOp.write 0x10028 4 5, .write 0x10004 4 2],
      (∃ t, idle.hostEvent op = .next t) ∧
      (∀ addr bytes v, op = .write addr bytes v → addr ≠ idle.params.base + 0x010 ∧
        (addr = idle.params.base + 0x004 → v.getLsbD 0 = false)) ∧ op ≠ .rst true) := by
  refine ⟨rfl, fun op h => ?_⟩
  simp only [List.mem_cons, List.not_mem_nil, or_false] at h
  rcases h with rfl | rfl <;> refine ⟨⟨_, rfl⟩, ?_, by decide⟩ <;> rintro _ _ _ ⟨⟩ <;> decide

/-! ## Every command -/

theorem met_CommandsNeverWriteTheirOperands : ∃ t, exec (.round .byte) idle = .next t := exec_next _ _

/-- One command of each class. -/
theorem met_CommandClassesKeepOtherResults :
    commandClass .nop = none ∧ commandClass (.extract .cp) = some .output ∧ commandClass (.numEnc .two) = some .number ∧
      commandClass .configureMk = some .configure ∧ ∃ t, exec .configureMk idle = .next t :=
  ⟨rfl, rfl, rfl, rfl, exec_next _ _⟩

theorem met_ErrorWritesFollowTheClass :
    (∀ i ∈ [Instr.balEnc, .numEnc .two, .configureFpe], State.reset.status.err = false ∧
      ∃ t, exec i State.reset = .next t ∧ t.status.err = true) ∧
    (∃ t, exec .nop idle = .next t) ∧
    (fieldsOf (busyWith 0x4020).cmd).legal = false := by
  refine ⟨fun i hi => ⟨rfl, exists_next (p := fun t => t.status.err) ?_⟩, ⟨_, rfl⟩, by decide⟩
  simp only [List.mem_cons, List.not_mem_nil, or_false] at hi
  rcases hi with rfl | rfl | rfl <;> decide +kernel

theorem met_CommandsRaiseOnlyTheirListedErrors :
    idle.Good ∧ idle.status.err = false ∧ ∃ t, exec (.fpeDec .raw) idle = .next t ∧ t.status.err = true :=
  ⟨good_idle, rfl, exists_next (p := fun t => t.status.err) (by decide +kernel)⟩

/-- After reset, and under another variant. -/
theorem met_CiphersNeedTheirVariantLatched :
    ¬ State.reset.latched .bal ∧ ¬ State.reset.latched .mk ∧ ¬ State.reset.latched .fpe ∧
      ¬ (configured .fpe []).latched .bal ∧ ¬ (configured .bal []).latched .mk ∧ ¬ (configured .mk []).latched .fpe := by
  refine ⟨?_, ?_, ?_, ?_, ?_, ?_⟩ <;> rintro ⟨⟨⟩, ⟨⟩⟩

theorem met_CiphersIgnoreKeySel :
    Instr.mkEnc ∈ [Instr.balEnc, .balDec, .mkEnc, .mkDec, .fpeEnc .raw, .fpeDec .raw, .fpeEncStr .raw, .fpeDecStr .raw,
      .numEnc .two, .numDec .two] ∧ ∃ t, exec .mkEnc (configured .mk [0x41]) = .next t :=
  ⟨by decide, exec_next _ _⟩

/-! ## Runs -/

/-- The ENGINE's step and a HOST's. -/
theorem met_StepKeepsGoodStates :
    (busyWith 0x22).Good ∧ (∃ t, step (busyWith 0x22) = .next t) ∧ idle.Good ∧ ∃ t, step idle = .next t := by
  refine ⟨?_, ?_, good_idle, _, rfl⟩
  · have h := good_idle
    exact { h with
      busyClear := by decide
      idleInReset := by decide
      codeKnown := .inl rfl
      errHasCode := by decide
      configured := by decide
      unlatched := by decide }
  · obtain ⟨t, h, -⟩ := (busyWith 0x22).engineStep_completes
    exact ⟨t, (step_engine rfl (.inl rfl)).trans h⟩

/-- The last and the first word of the window and a `readout`, with accesses after the `wait` that the FRE refuses. -/
theorem met_PendingCommandEnds :
    let s : State := { busyWith 0x22 with
      engineDelay := 4, hostQueue := [.read 0x1FFFC 4, .write 0x10000 4 0, .readOut, .wait, .read 0 1] }
    s.status.busy = true ∧ s.rst = false ∧ s.queueAdmitted ∧ HostOp.readOut ∈ s.hostQueue := by
  refine ⟨rfl, rfl, fun op h => ?_, by decide⟩
  replace h : op ∈ [HostOp.read 0x1FFFC 4, .write 0x10000 4 0, .readOut] := h
  simp only [List.mem_cons, List.not_mem_nil, or_false] at h
  rcases h with rfl | rfl | rfl
  · exact ⟨by decide, by decide⟩
  · exact ⟨by decide, by decide⟩
  · show (0x10000 : Nat) % 4 = 0
    decide

theorem met_WaitLoopTerminates :
    let s : State := { busyWith 0x22 with engineDelay := 2, hostQueue := [.wait, .rst true] }
    s.rst = false ∧ s.hostQueue = .wait :: [.rst true] := ⟨rfl, rfl⟩

/-- A vector that fills IBUF, of the largest words; a key string that fills the last slot; a text whose UTF-8 fills IBUF;
the largest integer. -/
theorem met_LoadScriptsPlaceTheOperands :
    idle.params.legal ∧ idle.status.busy = false ∧ idle.rst = false ∧
    (∀ x ∈ List.replicate 64 0xFFFFFFFF, x < 2 ^ 32) ∧
    (List.replicate 64 0xFFFFFFFF).length ≤ idle.params.ibufDepth ∧
    (State.hostQueue { idle with
        hostQueue := scriptLoadIn idle.params.base (List.replicate 64 0xFFFFFFFF) ++ [.wait] } =
      scriptLoadIn idle.params.base (List.replicate 64 0xFFFFFFFF) ++ [.wait]) ∧
    (2 < idle.params.nkeysMax ∧ idle.keyLen.length = idle.params.nkeysMax ∧
      (List.replicate 64 0x10FFFF).length ≤ idle.params.keyDepth ∧
      State.hostQueue { idle with hostQueue := scriptLoadKey idle.params.base 2 (List.replicate 64 0x10FFFF) ++ [.wait] } =
        scriptLoadKey idle.params.base 2 (List.replicate 64 0x10FFFF) ++ [.wait]) ∧
    ((∀ x ∈ List.replicate 16 0x10FFFF, isScalar x = true ∧ x < 2 ^ 32) ∧
      ((List.replicate 16 0x10FFFF).flatMap utf8Char).length = idle.params.ibufDepth ∧
      State.hostQueue { idle with hostQueue := scriptLoadInBytes idle.params.base (List.replicate 16 0x10FFFF) } =
        scriptLoadInBytes idle.params.base (List.replicate 16 0x10FFFF) ++ []) ∧
    State.hostQueue { idle with hostQueue := scriptLoadNum idle.params.base (2 ^ 128 - 1) } =
      scriptLoadNum idle.params.base (2 ^ 128 - 1) ++ [] := by
  refine ⟨params_legal, rfl, rfl, ?_, by decide, rfl, ⟨by decide, rfl, by decide, rfl⟩,
    ⟨?_, by decide +kernel, (List.append_nil _).symm⟩, rfl⟩ <;>
  · intro x hx
    rw [List.eq_of_mem_replicate hx]
    decide

/-! ## CONFIGURE -/

/-- Key lengths one past KEY_DEPTH and 0, a surrogate, one round, and two. -/
theorem met_ConfigureBalChecksAndLatches :
    ¬ (State.slotOk { idle with keyLen := [65, 1, 1] } 0) ∧
    ((given [] []).slotOk 0 ∧ ((given [] []).keyLenOf 0).toNat = 0) ∧
    ((given [[0xD800]] []).slotOk 0 ∧
      ∃ j < ((given [[0xD800]] []).keyLenOf 0).toNat, isScalar ((given [[0xD800]] []).keyWord 0 j).toNat = false) ∧
    (idle.keyOk 0 ∧ State.rounds { idle with rounds := 1 } < 2) ∧ 2 ≤ (State.rounds { idle with rounds := 2 }).toNat := by
  refine ⟨fun h => absurd h.2 (by decide), ⟨⟨by decide, by decide⟩, by decide⟩,
    ⟨⟨by decide, by decide⟩, 0, by decide, by decide +kernel⟩,
    ⟨⟨⟨by decide, by decide⟩, by decide, by decide +kernel⟩, by decide⟩, by decide⟩

/-- NKEYS 1, 2, NKEYS_MAX and one more; slot 1 too long, empty, and with a surrogate, slot 0 in order. -/
theorem met_ConfigureMkChecksAndLatches :
    (State.nkeys { idle with nkeys := 1 }).toNat < 2 ∧
    (let s : State := { idle with nkeys := 4 }; 2 ≤ s.nkeys.toNat ∧ s.params.nkeysMax < s.nkeys.toNat) ∧
    (let s : State := { idle with nkeys := 2, keyLen := [1, 65, 1] }
     2 ≤ s.nkeys.toNat ∧ s.nkeys.toNat ≤ s.params.nkeysMax ∧ 1 < s.nkeys.toNat ∧ (∀ k' < 1, s.keyOk k') ∧
       s.params.keyDepth < (s.keyLenOf 1).toNat) ∧
    (let s : State := { idle with nkeys := 2, keyLen := [1, 0, 1] }
     (∀ k' < 1, s.keyOk k') ∧ (s.keyLenOf 1).toNat = 0) ∧
    (let s : State := { given [keyK, [0xDFFF]] [] with nkeys := 2 }
     (∀ k' < 1, s.keyOk k') ∧ s.slotOk 1 ∧ ∃ j < (s.keyLenOf 1).toNat, isScalar (s.keyWord 1 j).toNat = false) ∧
    (let s : State := { idle with nkeys := 3 }
     s.nkeys.toNat ≤ s.params.nkeysMax ∧ ∀ k < s.nkeys.toNat, s.keyOk k) := by
  refine ⟨by decide, by decide, ⟨by decide, by decide, by decide, ?_, by decide⟩, ⟨?_, by decide⟩,
    ⟨?_, ⟨by decide, by decide⟩, 0, by decide, by decide +kernel⟩, by decide, ?_⟩
  · intro k hk
    obtain rfl : k = 0 := by omega
    exact ⟨⟨by decide, by decide⟩, by decide, by decide +kernel⟩
  · intro k hk
    obtain rfl : k = 0 := by omega
    exact ⟨⟨by decide, by decide⟩, by decide, by decide +kernel⟩
  · intro k hk
    obtain rfl : k = 0 := by omega
    exact ⟨⟨by decide, by decide⟩, by decide, by decide +kernel⟩
  · intro k hk
    have hk : k < 3 := hk
    obtain rfl | rfl | rfl : k = 0 ∨ k = 1 ∨ k = 2 := by omega
    all_goals exact ⟨⟨by decide, by decide⟩, by decide, by decide +kernel⟩

/-- ENGINE 4 and 3; the slot's cases as for BAL. -/
theorem met_ConfigureFpeChecksAndLatches :
    3 < (State.engine { idle with engine := 4 }).toNat ∧
    (State.engine { idle with engine := 3 }).toNat ≤ 3 ∧
    ¬ (State.slotOk { idle with engine := 3, keyLen := [65, 1, 1] } 0) ∧
    (State.slotOk { given [] [] with engine := 0 } 0 ∧ (State.keyLenOf { given [] [] with engine := 0 } 0).toNat = 0) ∧
    (let s : State := { given [[0x110000]] [] with engine := 0 }
     s.slotOk 0 ∧ ∃ j < (s.keyLenOf 0).toNat, isScalar (s.keyWord 0 j).toNat = false) ∧
    (let s : State := { idle with engine := 3, rounds := 1 }; s.keyOk 0 ∧ s.rounds.toNat < 2) ∧
    (let s : State := { idle with engine := 3, rounds := 2 }; s.keyOk 0 ∧ 2 ≤ s.rounds.toNat) := by
  refine ⟨by decide, by decide, fun h => absurd h.2 (by decide), ⟨⟨by decide, by decide⟩, by decide⟩,
    ⟨⟨by decide, by decide⟩, 0, by decide, by decide +kernel⟩, ⟨?_, by decide⟩, ?_, by decide⟩
  all_goals exact ⟨⟨by decide, by decide⟩, by decide, by decide +kernel⟩

/-! ## Utilities -/

theorem met_ExtractWritesTheWrappedSlice :
    let s : State := { given [[0xE9]] [] with arg1 := 64 }
    s.slotOk s.keySel.toNat ∧ utf8 (s.keyCps s.keySel.toNat) = .ok [0xC3, 0xA9] ∧ 0 < [0xC3, 0xA9].length ∧
      0 < (s.keyCps s.keySel.toNat).length ∧ s.arg1.toNat ≤ s.params.obufDepth :=
  ⟨⟨by decide, by decide⟩, by decide +kernel, by decide, by decide +kernel, by decide⟩

/-- The missing slot 3; a surrogate in byte mode; the empty key; ARG1 one past OBUF_DEPTH. -/
theorem met_ExtractReportsTheFirstFailingCheck :
    ¬ (State.slotOk { idle with keySel := 3 } 3) ∧
    ((given [[0xD800]] []).slotOk 0 ∧
      ∃ j < ((given [[0xD800]] []).keyLenOf 0).toNat, isScalar ((given [[0xD800]] []).keyWord 0 j).toNat = false) ∧
    ((given [] []).slotOk 0 ∧ ((given [] []).keyLenOf 0).toNat = 0) ∧
    (let s : State := { idle with arg1 := 65 }
     s.slotOk 0 ∧ 0 < (s.keyLenOf 0).toNat ∧ s.params.obufDepth < s.arg1.toNat ∧
       ∀ j < (s.keyLenOf 0).toNat, isScalar (s.keyWord 0 j).toNat = true) :=
  ⟨fun h => absurd h.1 (by decide), ⟨⟨by decide, by decide⟩, 0, by decide, by decide +kernel⟩,
    ⟨⟨by decide, by decide⟩, by decide⟩, ⟨by decide, by decide⟩, by decide, by decide, by decide +kernel⟩

/-- Two positions that fill an OBUF of 2 words, and byte sums that fill one of 3. -/
theorem met_AddWritesThePositionSums :
    (let s : State := { given [] [0x10FFFF, 0, 0x10FFFF, 1] with arg0 := 2, params := { params with obufDepth := 2 } }
     s.ilen.toNat = 2 * s.arg0.toNat ∧ s.inputOk isCodePoint ∧ s.arg0.toNat ≤ s.params.obufDepth) ∧
    (let s : State := { given [] [255, 100, 255, 100] with arg0 := 2, params := { params with obufDepth := 4 } }
     s.ilen.toNat = 2 * s.arg0.toNat ∧ s.inputOk isByte ∧
       ((List.range s.arg0.toNat).flatMap fun j =>
         let v := ((s.ibufWord j).toNat + (s.ibufWord (s.arg0.toNat + j)).toNat) % 256
         if v < 128 then [v] else if v < 192 then [194, v] else [195, v - 64]).length ≤ s.params.obufDepth) :=
  ⟨⟨by decide, ⟨by decide, by decide +kernel⟩, by decide⟩, by decide, ⟨by decide, by decide +kernel⟩, by decide +kernel⟩

theorem met_XorWritesThePositionXors :
    let s : State := { given [] [255, 0, 255, 1] with arg0 := 2, params := { params with obufDepth := 2 } }
    s.ilen.toNat = 2 * s.arg0.toNat ∧ s.inputOk isCodePoint ∧ s.inputOk isByte ∧ s.arg0.toNat ≤ s.params.obufDepth :=
  ⟨by decide, ⟨by decide, by decide +kernel⟩, ⟨by decide, by decide +kernel⟩, by decide⟩

/-- An odd and an even input, each filling OBUF; no, one and two leading markers, with and without a rest; an input longer
than OBUF whose rest fills it. -/
theorem met_PadAndUnpadHandleTheMarker :
    (let s : State := { given [] [97, 98, 99] with params := { params with obufDepth := 4 } }
     s.inputOk isScalar ∧ s.ilen.toNat + s.ilen.toNat % 2 ≤ s.params.obufDepth) ∧
    (let s : State := { given [] [97, 98] with params := { params with obufDepth := 2 } }
     s.inputOk isScalar ∧ s.ilen.toNat + s.ilen.toNat % 2 ≤ s.params.obufDepth) ∧
    (∀ e ∈ [((0 : Nat), ([97, 2] : Units)), (1, [97]), (2, [])],
      (given [] (List.replicate e.1 2 ++ e.2)).inUnits = List.replicate e.1 2 ++ e.2 ∧ e.2.head? ≠ some 2) ∧
    (let s : State := { given [] [2, 2, 97] with params := { params with obufDepth := 1 } }
     s.inputOk isScalar ∧ s.inUnits = List.replicate 2 2 ++ [97] ∧ ([97] : Units).head? ≠ some 2 ∧
       ([97] : Units).length ≤ s.params.obufDepth ∧ s.params.obufDepth < s.ilen.toNat) :=
  ⟨⟨⟨by decide, by decide +kernel⟩, by decide⟩, ⟨⟨by decide, by decide +kernel⟩, by decide⟩, by decide +kernel,
    ⟨by decide, by decide +kernel⟩, by decide +kernel, by decide, by decide, by decide⟩

/-- ENGINE 4 and 3; the missing slot; ILEN one past IBUF_DEPTH; a unit past each range; a character the table lacks; a
length that is not twice ARG0; for each command an output one unit past OBUF; ROUND's empty key, its sum one past the
scalars below the surrogates, and its key that is no text. -/
theorem met_PrimitiveCommandsReportTheFirstFailingCheck :
    3 < (State.engine { idle with engine := 4 }).toNat ∧
    (State.engine { idle with engine := 3 }).toNat ≤ 3 ∧ ¬ (State.slotOk { idle with keySel := 3 } 3) ∧
    idle.params.ibufDepth < (State.ilen { idle with ilen := 65 }).toNat ∧
    (let s := given [keyK] [0x110000]
     s.ilen.toNat ≤ s.params.ibufDepth ∧ (∃ j < s.ilen.toNat, 0x10FFFF < (s.ibufWord j).toNat) ∧
       (∃ j < s.ilen.toNat, isScalar (s.ibufWord j).toNat = false) ∧ (∃ j < s.ilen.toNat, 0xFF < (s.ibufWord j).toNat) ∧
       (∃ j < s.ilen.toNat, (s.ibufWord j).toNat ∉ s.params.b256) ∧ s.slotOk s.keySel.toNat) ∧
    (let s : State := { given [] [1, 2, 3] with arg0 := 1 }
     s.inputOk isCodePoint ∧ s.inputOk isByte ∧ s.ilen.toNat ≠ 2 * s.arg0.toNat) ∧
    (let s : State := { given [] [1, 2, 3, 4] with arg0 := 2, params := { params with obufDepth := 1 } }
     s.inputOk isCodePoint ∧ s.inputOk isByte ∧ s.ilen.toNat = 2 * s.arg0.toNat ∧ s.params.obufDepth < s.arg0.toNat) ∧
    (let s : State := { given [] [255, 255] with arg0 := 1, params := { params with obufDepth := 1 } }
     s.inputOk isByte ∧ s.ilen.toNat = 2 * s.arg0.toNat ∧
       s.params.obufDepth < ((List.range s.arg0.toNat).flatMap fun j =>
         let v := ((s.ibufWord j).toNat + (s.ibufWord (s.arg0.toNat + j)).toNat) % 256
         if v < 128 then [v] else if v < 192 then [194, v] else [195, v - 64]).length) ∧
    (let s : State := { given [] [97] with params := { params with obufDepth := 1 } }
     s.inputOk isScalar ∧ s.params.obufDepth < s.ilen.toNat + s.ilen.toNat % 2) ∧
    (let s : State := { given [] [2, 97, 98] with params := { params with obufDepth := 1 } }
     s.inputOk isScalar ∧ s.inUnits = List.replicate 1 2 ++ [97, 98] ∧ ([97, 98] : Units).head? ≠ some 2 ∧
       s.params.obufDepth < ([97, 98] : Units).length) ∧
    (let s : State := { idle with engine := 0, params := { params with obufDepth := 1 } }
     s.inputOk isByte ∧ s.inputOk isScalar ∧ s.params.obufDepth < s.ilen.toNat ∧ s.engine.toNat ≤ 3 ∧
       s.params.obufDepth < 32 ∧ s.params.obufDepth < 64 ∧ s.keyOk s.keySel.toNat ∧
       0 < (s.keyLenOf s.keySel.toNat).toNat ∧
       ∀ j < s.ilen.toNat, isScalar ((s.ibufWord j).toNat + (s.keyWord s.keySel.toNat
         ((s.arg0.toNat + j) % (s.keyLenOf s.keySel.toNat).toNat)).toNat) = true) ∧
    (let s : State := { given [] [0x21, 0x144] with params := { params with obufDepth := 1 } }
     s.ilen.toNat ≤ s.params.ibufDepth ∧ s.params.obufDepth < s.ilen.toNat ∧
       ∀ j < s.ilen.toNat, (s.ibufWord j).toNat ∈ s.params.b256) ∧
    (let s : State := { given [] [] with engine := 0 }
     s.slotOk s.keySel.toNat ∧ s.inputOk isScalar ∧ s.inputOk isByte ∧ (s.keyLenOf s.keySel.toNat).toNat = 0) ∧
    (let s : State := { given [[0xD7FF]] [1] with engine := 0 }
     s.slotOk s.keySel.toNat ∧ s.inputOk isScalar ∧ 0 < (s.keyLenOf s.keySel.toNat).toNat ∧
       ∃ j < s.ilen.toNat, isScalar ((s.ibufWord j).toNat + (s.keyWord s.keySel.toNat
         ((s.arg0.toNat + j) % (s.keyLenOf s.keySel.toNat).toNat)).toNat) = false) ∧
    (let s : State := { given [[0xD800]] [1] with engine := 0 }
     s.slotOk s.keySel.toNat ∧ s.inputOk isByte ∧
       ∃ j < (s.keyLenOf s.keySel.toNat).toNat, isScalar (s.keyWord s.keySel.toNat j).toNat = false) := by
  refine ⟨by decide, by decide, fun h => absurd h.1 (by decide), by decide,
    ⟨by decide, ⟨0, by decide, by decide +kernel⟩, ⟨0, by decide, by decide +kernel⟩, ⟨0, by decide, by decide +kernel⟩,
      ⟨0, by decide, by decide +kernel⟩, by decide, by decide⟩,
    ⟨⟨by decide, by decide +kernel⟩, ⟨by decide, by decide +kernel⟩, by decide⟩,
    ⟨⟨by decide, by decide +kernel⟩, ⟨by decide, by decide +kernel⟩, by decide, by decide⟩,
    ⟨⟨by decide, by decide +kernel⟩, by decide, by decide +kernel⟩, ⟨⟨by decide, by decide +kernel⟩, by decide⟩,
    ⟨⟨by decide, by decide +kernel⟩, by decide +kernel, by decide, by decide⟩,
    ⟨⟨by decide, by decide +kernel⟩, ⟨by decide, by decide +kernel⟩, by decide, by decide, by decide, by decide,
      ⟨⟨by decide, by decide⟩, by decide, by decide +kernel⟩, by decide, by decide +kernel⟩,
    ⟨by decide, by decide, by decide +kernel⟩,
    ⟨⟨by decide, by decide⟩, ⟨by decide, by decide +kernel⟩, ⟨by decide, by decide +kernel⟩, by decide⟩,
    ⟨⟨by decide, by decide⟩, ⟨by decide, by decide +kernel⟩, by decide, 0, by decide, by decide +kernel⟩,
    ⟨by decide, by decide⟩, ⟨by decide, by decide +kernel⟩, 0, by decide, by decide +kernel⟩

/-! ## DIGEST, ROUND and the codec -/

/-- OBUF of exactly 32 and of exactly 64 words. -/
theorem met_DigestWritesTheDigestOfTheInput :
    let s : State := { idle with engine := 3, params := { params with obufDepth := 32 } }
    engineOfNumber s.engine.toNat = some .sha3 ∧ s.inputOk isByte ∧ 32 ≤ s.params.obufDepth ∧
      64 ≤ idle.params.obufDepth ∧ 4 > 3 :=
  ⟨by decide, ⟨by decide, by decide +kernel⟩, by decide, by decide, by decide⟩

theorem met_RoundWritesTheKeyedMask :
    let s : State := { idle with engine := 0, params := { params with obufDepth := 2 } }
    engineOfNumber s.engine.toNat = some .blake2b256 ∧ s.slotOk s.keySel.toNat ∧ s.ilen.toNat ≤ s.params.obufDepth ∧
      0 < (s.keyLenOf s.keySel.toNat).toNat ∧ s.inputOk isScalar ∧ s.inputOk isByte ∧
      utf8 ((List.range s.ilen.toNat).map fun j => (s.ibufWord j).toNat +
        (s.keyWord s.keySel.toNat ((s.arg0.toNat + j) % (s.keyLenOf s.keySel.toNat).toNat)).toNat) =
          .ok [0xC2, 0xAC, 0xC2, 0xAD] ∧
      utf8 (s.keyCps s.keySel.toNat) = .ok [0x6B] :=
  ⟨by decide, ⟨by decide, by decide⟩, by decide, by decide, ⟨by decide, by decide +kernel⟩,
    ⟨by decide, by decide +kernel⟩, by decide +kernel, by decide +kernel⟩

theorem met_RoundFunctionsGiveLengthMatchedHexDigits (dg : DigestFn) :
    (keyK ≠ [] ∧ utf8 ((List.range ([0x41, 0x42] : Units).length).map fun j =>
      ([0x41, 0x42] : Units).getD j 0 + keyK.getD ((5 + j) % keyK.length) 0) = .ok [0xC2, 0xAC, 0xC2, 0xAD]) ∧
    (∃ out, roundCp dg [0x41, 0x42] 5 keyK .sha3 = .ok out) ∧ ∃ out, roundB dg [0xFF, 0] 0 keyK .keccak256 = .ok out :=
  ⟨by decide +kernel, roundCp_ascii dg 5 .sha3 (by decide) (by decide) (by decide), _, roundB_ok dg _ 0 (by decide) _⟩

/-- IBUF and OBUF filled, the first and the last byte. -/
theorem met_CodecCommandsMapThroughTheTable :
    (let s : State := { given [] [0, 255] with params := { params with ibufDepth := 2, obufDepth := 2 } }
     s.inputOk isByte ∧ s.ilen.toNat ≤ s.params.obufDepth) ∧
    (let s : State := given [] [0x21, 0x144]
     s.params.legal ∧ s.ilen.toNat ≤ s.params.ibufDepth ∧ s.ilen.toNat ≤ s.params.obufDepth ∧
       (∀ x ∈ ([0, 255] : Units), x < 256) ∧ s.inUnits = [0, 255].map fun x => s.params.b256.getD x 0) :=
  ⟨⟨⟨by decide, by decide +kernel⟩, by decide⟩, params_legal, by decide, by decide, by decide, by decide +kernel⟩

theorem met_CodecIsABijection :
    tableOk candidateTable ∧ (∀ x ∈ ([2, 7, 93] : Units), x < 256) ∧
      b256DecUnits candidateTable [0x23, 0x28, 0xA1] = .ok [2, 7, 93] :=
  ⟨candidateTable_conforms, by decide, by decide +kernel⟩

/-! ## The balanced ciphers -/

theorem configured_inUnits (v : Variant) {c : Units} (hl : c.length < 65536) (hc : ∀ x ∈ c, x < 2 ^ 32) :
    (configured v c).inUnits = c :=
  given_inUnits [keyK, keyK, keyK] hl hc

theorem configured_keys (v : Variant) (c : Units) : ∀ k < 3, (configured v c).keyCps k = keyK := by
  intro k hk
  have h : ∀ k < 3, idle.keyCps k = keyK := by decide +kernel
  exact h k hk

/-- The key schedule of a configured balanced cipher, as the statements name it. -/
def scheduleOf (v : Variant) (s : State) : (Nat → Units) × Nat :=
  match v with
  | .mk => (s.keyCps, s.nkeys.toNat)
  | _ => (fun _ => s.keyCps 0, s.rounds.toNat)

theorem scheduleOf_configured (v : Variant) (c : Units) :
    (scheduleOf v (configured v c)).2 = 2 ∧ ∀ i < 2, (scheduleOf v (configured v c)).1 i = keyK := by
  cases v
  · exact ⟨rfl, fun i _ => configured_keys _ _ 0 (by decide)⟩
  · exact ⟨rfl, fun i hi => configured_keys _ _ i (by omega)⟩
  · exact ⟨rfl, fun i _ => configured_keys _ _ 0 (by decide)⟩

/-- Each configured cipher on "AB": the round function is keyed by an ASCII key, so an output is there, and it fits. -/
theorem met_BalancedEncryptionWritesTheCoreOutput :
    ∀ v ∈ [Variant.bal, .mk], ∃ c b : Units, (configured v [0x41, 0x42]).inputOk isScalar ∧ utf8 c = .ok b ∧
      b.length ≤ (configured v [0x41, 0x42]).params.obufDepth ∧ (configured v [0x41, 0x42]).latched v ∧
      balCoreEnc (fun i x => roundCp Config.digest x i ((scheduleOf v (configured v [0x41, 0x42])).1 i) .sha256)
        (scheduleOf v (configured v [0x41, 0x42])).2 (configured v [0x41, 0x42]).inUnits = .ok c := by
  intro v _
  obtain ⟨hn, hk⟩ := scheduleOf_configured v [0x41, 0x42]
  obtain ⟨c, h1, h2, h3⟩ := balCore_gives Config.digest (scheduleOf v (configured v [0x41, 0x42])).1 2
    fun i hi => by rw [hk i hi]; decide
  refine ⟨c, c, ⟨by cases v <;> decide, by cases v <;> decide +kernel⟩, utf8_ascii h3, ?_, latched_configured _ _, ?_⟩
  · rw [h2]
    exact (by decide : 2 ≤ 64)
  · rw [hn, configured_inUnits v (by decide) (by decide)]
    exact h1

/-- A round function whose mask is a fixed byte for each unit. -/
def fixedMask (m : Nat) (_ : Nat) (x : Units) : Except ErrCode Units := .ok (List.replicate x.length m)

/-- The steps of the balanced cores, one round under a fixed mask on "AB". -/
theorem met_BalancedCoreSteps :
    ([0x41, 0x42] : Units) ≠ [] ∧
      balEncRounds (fixedMask 1) 1 (splitUnits (padUnits [0x41, 0x42])) = .ok ([0x42], [0x40]) ∧
      fixedMask 1 1 [0x40] = .ok [1] ∧ ([0x42] : Units).length = ([1] : Units).length ∧
      balDecRounds (fixedMask 1) 1 (([0x42, 0x40] : Units).take 1, ([0x42, 0x40] : Units).drop 1) = .ok ([0x41], [0x42]) := by
  decide

/-- Its errors: ILEN one past IBUF_DEPTH; a surrogate; the largest character, which the key carries past the scalars in
round 0; an OBUF of one word. -/
theorem met_BalancedEncryptionErrors :
    ∀ v ∈ [Variant.bal, .mk],
      (let s : State := { configured v [] with ilen := 65 }; s.latched v ∧ s.params.ibufDepth < s.ilen.toNat) ∧
      (let s := configured v [0xD800]
       s.latched v ∧ s.ilen.toNat ≤ s.params.ibufDepth ∧ ∃ j < s.ilen.toNat, isScalar (s.ibufWord j).toNat = false) ∧
      (let s := configured v [0x41, 0x10FFFF]
       s.inputOk isScalar ∧ s.ilen.toNat ≠ 0 ∧ 0 < (scheduleOf v s).2 ∧
         balEncRounds (fun i x => roundCp Config.digest x i ((scheduleOf v s).1 i) .sha256) 0
           (splitUnits (padUnits s.inUnits)) = .ok ([0x41], [0x10FFFF]) ∧
         (scheduleOf v s).1 0 = keyK ∧
         ∃ j < 1, isScalar (([0x10FFFF] : Units).getD j 0 + keyK.getD ((0 + j) % keyK.length) 0) = false) ∧
      (let s : State := { configured v [0x41, 0x42] with params := { params with obufDepth := 1 } }
       s.latched v ∧ s.inputOk isScalar ∧ ∃ c b : Units,
         balCoreEnc (fun i x => roundCp Config.digest x i ((scheduleOf v s).1 i) .sha256) (scheduleOf v s).2 s.inUnits =
           .ok c ∧ utf8 c = .ok b ∧ s.params.obufDepth < b.length) := by
  intro v _
  refine ⟨⟨⟨rfl, rfl⟩, (by decide : 64 < 65)⟩, ⟨⟨rfl, rfl⟩, by cases v <;> decide, 0, by cases v <;> decide, ?_⟩,
    ⟨⟨by cases v <;> decide, by cases v <;> decide +kernel⟩, by cases v <;> decide, ?_, ?_, ?_, 0, by decide, by decide⟩,
    ⟨⟨rfl, rfl⟩, ⟨by cases v <;> decide, by cases v <;> decide +kernel⟩, ?_⟩⟩
  · cases v <;> decide +kernel
  · rw [(scheduleOf_configured v _).1]
    decide
  · rw [configured_inUnits v (by decide) (by decide)]
    rfl
  · exact (scheduleOf_configured v _).2 0 (by decide)
  · obtain ⟨hn, hk⟩ := scheduleOf_configured v [0x41, 0x42]
    obtain ⟨c, h1, h2, h3⟩ := balCore_gives Config.digest (scheduleOf v (configured v [0x41, 0x42])).1 2
      fun i hi => by rw [hk i hi]; decide
    rw [← configured_inUnits v (c := [0x41, 0x42]) (by decide) (by decide), ← hn] at h1
    refine ⟨c, c, by cases v <;> exact h1, utf8_ascii h3, ?_⟩
    rw [h2]
    exact (by decide : 1 < 2)

/-- An even input, and an odd one that fills OBUF with its marker. -/
theorem met_AsciiTextAlwaysCompletes :
    ∀ v ∈ [Variant.bal, .mk], ∀ c ∈ [([0x41, 0x42] : Units), [0x7F]],
      (configured v c).Good ∧ (configured v c).inputOk (fun u => decide (u < 0x80)) ∧ (configured v c).latched v ∧
      (∀ k < 3, ∀ x ∈ (configured v c).keyCps k, x < 0x80) ∧ (configured v c).nkeys.toNat ≤ 3 ∧
      (configured v c).ilen.toNat + (configured v c).ilen.toNat % 2 ≤ (configured v c).params.obufDepth := by
  intro v _ c hc
  have hl : c.length ≤ 2 ∧ ∀ x ∈ c, x < 0x80 := by revert c; decide
  have hi : (configured v c).ilen.toNat = c.length := by
    show (BitVec.ofNat 16 c.length).toNat = c.length
    rw [BitVec.toNat_ofNat]
    omega
  refine ⟨good_configured v (by omega), inputOk_of_inUnits ?_ ?_, latched_configured v c, ?_, Nat.le_succ 2, ?_⟩
  · rw [hi]
    show c.length ≤ 64
    omega
  · rw [configured_inUnits v (by omega) fun x hx => by have := hl.2 x hx; omega]
    exact fun x hx => decide_eq_true (hl.2 x hx)
  · intro k hk
    rw [configured_keys v c k hk]
    decide
  · rw [hi]
    show c.length + c.length % 2 ≤ 64
    omega

theorem met_BalancedDecryptionWritesTheCoreOutput :
    (∃ p : Units, (configured .bal [0x41, 0x42]).inputOk isByte ∧ (configured .bal [0x41, 0x42]).ilen.toNat ≠ 0 ∧
      (configured .bal [0x41, 0x42]).ilen.toNat % 2 = 0 ∧
      utf8 [0x41, 0x42] = .ok (configured .bal [0x41, 0x42]).inUnits ∧ p.length ≤ 64 ∧
      balCoreDec (fun i x => roundCp Config.digest x i ((configured .bal [0x41, 0x42]).keyCps 0) .sha256) 2
        [0x41, 0x42] = .ok p) ∧
    (∃ p : Units, (configured .mk [0x41, 0x42]).inputOk isByte ∧ (configured .mk [0x41, 0x42]).ilen.toNat ≠ 0 ∧
      utf8 [0x41, 0x42] = .ok (configured .mk [0x41, 0x42]).inUnits ∧ p.length ≤ 64 ∧
      balCoreDec (fun i x => roundCp Config.digest x i ((configured .mk [0x41, 0x42]).keyCps i) .sha256) 2
        [0x41, 0x42] = .ok p) ∧
    ∀ v ∈ [Variant.bal, .mk], (configured v []).ilen = 0 ∧ (configured v []).latched v := by
  refine ⟨?_, ?_, fun v _ => ⟨rfl, latched_configured v []⟩⟩
  · obtain ⟨p, h1, h2⟩ := balCore_takes Config.digest (fun _ => (configured .bal [0x41, 0x42]).keyCps 0) 2
      fun i _ => by rw [configured_keys _ _ 0 (by decide)]; decide
    rw [configured_inUnits .bal (by decide) (by decide)]
    exact ⟨p, ⟨by decide, by decide +kernel⟩, by decide, by decide, by decide, by omega, h1⟩
  · obtain ⟨p, h1, h2⟩ := balCore_takes Config.digest (fun i => (configured .mk [0x41, 0x42]).keyCps i) 2
      fun i hi => by rw [configured_keys _ _ i (by omega)]; decide
    rw [configured_inUnits .mk (by decide) (by decide)]
    exact ⟨p, ⟨by decide, by decide +kernel⟩, by decide, by decide, by omega, h1⟩

/-- ILEN one past IBUF_DEPTH; a unit one past the bytes; one byte; two that are no UTF-8; the largest character twice, which
the key carries past the scalars in the first round; three characters; two that do not fit an OBUF of one word. -/
theorem met_BalancedDecryptionRejectsBadCiphertext :
    ∀ v ∈ [Variant.bal, .mk],
      (let s : State := { configured v [] with ilen := 65 }; s.latched v ∧ s.params.ibufDepth < s.ilen.toNat) ∧
      (let s := configured v [0x100, 0]
       s.latched v ∧ s.ilen.toNat ≤ s.params.ibufDepth ∧ ∃ j < s.ilen.toNat, 0xFF < (s.ibufWord j).toNat) ∧
      (let s := configured v [0xC3]; s.inputOk isByte ∧ s.ilen.toNat % 2 = 1 ∧ s.latched v) ∧
      (let s := configured v [0xFF, 0xFF]
       s.inputOk isByte ∧ s.ilen.toNat % 2 = 0 ∧ ∀ u, utf8 u ≠ .ok s.inUnits) ∧
      (let s := configured v [0xF4, 0x8F, 0xBF, 0xBF, 0xF4, 0x8F, 0xBF, 0xBF]
       s.inputOk isByte ∧ s.ilen.toNat % 2 = 0 ∧ s.ilen.toNat ≠ 0 ∧ utf8 [0x10FFFF, 0x10FFFF] = .ok s.inUnits ∧
         (scheduleOf v s).2 = 2 ∧
         balDecRounds (fun k x => roundCp Config.digest x (k + 1 + 1) ((scheduleOf v s).1 (k + 1 + 1)) .sha256) (2 - 1 - 1)
           (splitUnits [0x10FFFF, 0x10FFFF]) = .ok ([0x10FFFF], [0x10FFFF]) ∧
         (scheduleOf v s).1 1 = keyK ∧
         ∃ j < 1, isScalar (([0x10FFFF] : Units).getD j 0 + keyK.getD ((1 + j) % keyK.length) 0) = false) ∧
      (let s := configured v [0xC3, 0xA9, 0x41, 0x42]
       s.inputOk isByte ∧ s.ilen.toNat % 2 = 0 ∧ s.ilen.toNat ≠ 0 ∧ utf8 [0xE9, 0x41, 0x42] = .ok s.inUnits ∧
         ([0xE9, 0x41, 0x42] : Units).length % 2 = 1 ∧ (scheduleOf v s).2 = 2 ∧ (scheduleOf v s).1 (2 - 1) = keyK ∧
         ∀ j < 3 / 2, isScalar (([0xE9, 0x41, 0x42] : Units).getD j 0 +
           keyK.getD ((2 - 1 + j) % keyK.length) 0) = true) ∧
      (let s : State := { configured v [0xC3, 0xA9, 0xC3, 0xA9] with params := { params with obufDepth := 1 } }
       s.inputOk isByte ∧ s.ilen.toNat % 2 = 0 ∧ s.ilen.toNat ≠ 0 ∧ utf8 [0xE9, 0xE9] = .ok s.inUnits ∧
         ∃ p : Units, balCoreDec (fun i x => roundCp Config.digest x i ((scheduleOf v s).1 i) .sha256) (scheduleOf v s).2
           [0xE9, 0xE9] = .ok p ∧ s.params.obufDepth < p.length) := by
  intro v _
  refine ⟨⟨⟨rfl, rfl⟩, (by decide : 64 < 65)⟩, ⟨⟨rfl, rfl⟩, ?_, 0, ?_, ?_⟩, ⟨⟨?_, ?_⟩, ?_, rfl, rfl⟩,
    ⟨⟨?_, ?_⟩, ?_, fun u => ?noText⟩,
    ⟨⟨?_, ?_⟩, ?_, ?_, ?_, (scheduleOf_configured v _).1, rfl, (scheduleOf_configured v _).2 1 (by decide), 0, by decide,
      by decide⟩,
    ⟨⟨?_, ?_⟩, ?_, ?_, ?_, by decide, (scheduleOf_configured v _).1, (scheduleOf_configured v _).2 1 (by decide),
      by decide⟩, ⟨?_, ?_⟩, ?_, ?_, ?_, ?tooLong⟩
  case noText =>
    rw [configured_inUnits v (by decide) (by decide)]
    exact utf8_ne_ff u _
  case tooLong =>
    obtain ⟨hn, hk⟩ := scheduleOf_configured v [0xC3, 0xA9, 0xC3, 0xA9]
    obtain ⟨p, h1, h2⟩ := balCore_keeps_two Config.digest (scheduleOf v (configured v [0xC3, 0xA9, 0xC3, 0xA9])).1 2
      fun i hi => by rw [hk i hi]; decide
    rw [← hn] at h1
    refine ⟨p, by cases v <;> exact h1, ?_⟩
    rw [h2]
    exact (by decide : 1 < 2)
  all_goals cases v <;> decide +kernel

/-- "AB" and the empty text, with keys that are not empty. -/
theorem met_BalancedDecryptInvertsEncrypt (dg : DigestFn) :
    (∃ c, balCoreEnc (fun i x => roundCp dg x i ((fun _ => keyK) i) .sha256) 2 [0x41, 0x42] = .ok c) ∧
      ([0x41, 0x42] : Units).head? ≠ some 2 ∧ (∀ i < 2, (fun _ : Nat => keyK) i ≠ []) ∧
      balCoreEnc (fun i x => roundCp dg x i ((fun _ => keyK) i) .sha256) 2 [] = .ok [] := by
  obtain ⟨c, h, -⟩ := balCore_gives dg (fun _ => keyK) 2 fun _ _ => by decide
  exact ⟨⟨c, h⟩, by decide, by decide, rfl⟩

theorem met_BalancedOutputStaysEncodable (dg : DigestFn) :
    (∀ x ∈ ([0x41, 0x42] : Units), isScalar x = true) ∧
      ∃ c, balCoreEnc (fun i x => roundCp dg x i ((fun _ => keyK) i) .sha256) 2 [0x41, 0x42] = .ok c := by
  obtain ⟨c, h, -⟩ := balCore_gives dg (fun _ => keyK) 2 fun _ _ => by decide
  exact ⟨by decide, c, h⟩

/-! ## The format-preserving cipher and the integer variant -/

/-- Halves of equal length, and one longer either way. -/
theorem met_FpeRoundIsInvertedByItsMirror :
    keyK ≠ [] ∧ ∀ p ∈ [(([1] : Units), ([2] : Units)), ([1], []), ([], [2])],
      p.1.length ≤ p.2.length + 1 ∧ p.2.length ≤ p.1.length + 1 := by decide

/-- The steps of the FPE cores, one round under a fixed mask on three bytes. -/
theorem met_FpeCoreSteps :
    ([1, 2, 3] : Units) ≠ [] ∧
      fpeEncRounds (fixedMask 4) 1 (([1, 2, 3] : Units).take 1, ([1, 2, 3] : Units).drop 1) = .ok ([2, 3], [5]) ∧
      fpeDecRounds (fixedMask 4) 1 (([2, 3, 5] : Units).take 2, ([2, 3, 5] : Units).drop 2) = .ok ([1], [2, 3]) ∧
      fpeDecRound (fixedMask 4) 0 ([2, 3], [5]) = .ok ([1], [2, 3]) := by decide

theorem met_FpeEncryptionPreservesLengthAndBytes : keyK ≠ [] ∧ ∀ x ∈ ([0, 255, 1] : Units), x < 256 := by decide

theorem met_FpeCoresAreInverse : keyK ≠ [] ∧ ∀ x ∈ ([0, 255] : Units), x < 256 := by decide

theorem inputOk_bytes {c : Units} (hl : c.length ≤ 64) (hc : ∀ x ∈ c, x < 256) :
    (configured .fpe c).inputOk isByte := by
  refine inputOk_of_inUnits ?_ ?_
  · show (BitVec.ofNat 16 c.length).toNat ≤ 64
    rw [BitVec.toNat_ofNat]
    omega
  · rw [configured_inUnits .fpe (by omega) fun x hx => by have := hc x hx; omega]
    exact fun x hx => decide_eq_true (by have := hc x hx; omega)

theorem met_FpeByteCommandsComplete :
    (configured .fpe [0, 255]).Good ∧ (configured .fpe [0, 255]).latched .fpe ∧
      (configured .fpe [0, 255]).ilen.toNat ≤ (configured .fpe [0, 255]).params.obufDepth ∧
      (configured .fpe [0, 255]).inputOk isByte ∧
      (configured .fpe [0x21, 0x144]).inUnits = [0, 255].map (fun x => (configured .fpe []).params.b256.getD x 0) ∧
      (configured .fpe [0x21, 0x144]).ilen.toNat ≤ (configured .fpe [0x21, 0x144]).params.ibufDepth :=
  ⟨good_configured _ (by decide), latched_configured _ _, by decide, inputOk_bytes (by decide) (by decide),
    by decide +kernel, by decide⟩

/-- ILEN one past IBUF_DEPTH; a unit past every range of FPE_ENC, FPE_ENC_STR and their decrypts. -/
theorem met_FpeErrors :
    (let s : State := { configured .fpe [] with ilen := 65 }; s.latched .fpe ∧ s.params.ibufDepth < s.ilen.toNat) ∧
    (let s := configured .fpe [0x110000]
     s.latched .fpe ∧ s.ilen.toNat ≤ s.params.ibufDepth ∧ (∃ j < s.ilen.toNat, 0xFF < (s.ibufWord j).toNat) ∧
       (∃ j < s.ilen.toNat, isScalar (s.ibufWord j).toNat = false) ∧
       ∃ j < s.ilen.toNat, (s.ibufWord j).toNat ∉ s.params.b256) :=
  ⟨⟨⟨rfl, rfl⟩, by decide⟩, ⟨rfl, rfl⟩, by decide, ⟨0, by decide, by decide +kernel⟩, ⟨0, by decide, by decide +kernel⟩,
    0, by decide, by decide +kernel⟩

/-- Inputs of 33 units, as bytes, as table characters, and of 17 characters of two bytes, for an OBUF of 32 words. -/
theorem met_FpeOutputsThatDoNotFit :
    (let s := tight .fpe (List.replicate 33 0x41)
     s.Good ∧ s.latched .fpe ∧ s.params.obufDepth < s.ilen.toNat ∧ s.inputOk isByte) ∧
    (let s := tight .fpe (List.replicate 33 0x21)
     s.Good ∧ s.params.obufDepth < s.ilen.toNat ∧ s.ilen.toNat ≤ s.params.ibufDepth ∧
       ∀ j < s.ilen.toNat, (s.ibufWord j).toNat ∈ s.params.b256) ∧
    (let s := tight .fpe (List.replicate 17 0xE9)
     s.Good ∧ s.inputOk isScalar ∧ ∃ p, utf8 s.inUnits = .ok p ∧ s.params.obufDepth < p.length) := by
  refine ⟨⟨good_tight _ (by decide), ⟨rfl, rfl⟩, by decide, by decide, by decide +kernel⟩,
    ⟨good_tight _ (by decide), by decide, by decide, by decide +kernel⟩, good_tight _ (by decide),
    ⟨by decide, by decide +kernel⟩, (List.replicate 17 [0xC3, 0xA9]).flatten, by decide +kernel, by decide⟩

theorem configured_key : utf8 ((configured .fpe []).keyCps 0) = .ok [0x6B] := by
  rw [configured_keys .fpe [] 0 (by decide)]
  rfl

/-- The ciphertexts of "A", of the byte 0xFF and of 33 letters: the first decrypts to text, the second to no text, the third
to a text that does not fit an OBUF of 32 words. -/
theorem met_FpeStringCommandsWrapTheByteCore :
    ((configured .fpe [0xE9]).Good ∧ (configured .fpe [0xE9]).latched .fpe ∧
      utf8 ((configured .fpe [0xE9]).keyCps 0) = .ok [0x6B] ∧
      engineOfNumber (configured .fpe [0xE9]).engine.toNat = some .sha256 ∧
      (configured .fpe [0xE9]).inputOk isScalar ∧ utf8 (configured .fpe [0xE9]).inUnits = .ok [0xC3, 0xA9]) ∧
    (∃ c : Units, (configured .fpe c).Good ∧ (configured .fpe c).inputOk isByte ∧ c = (configured .fpe c).inUnits ∧
      fpeCoreDec (fun i x => roundB Config.digest x i [0x6B] .sha256) 2 c = .ok [0x41] ∧ utf8 [0x41] = .ok [0x41]) ∧
    (∃ c : Units, (configured .fpe c).Good ∧ (configured .fpe c).inputOk isByte ∧ c = (configured .fpe c).inUnits ∧
      fpeCoreDec (fun i x => roundB Config.digest x i [0x6B] .sha256) 2 c = .ok [0xFF] ∧ ∀ v, utf8 v ≠ .ok [0xFF]) ∧
    ∃ c v : Units, (tight .fpe c).Good ∧ (tight .fpe c).latched .fpe ∧ (tight .fpe c).inputOk isByte ∧
      c = (tight .fpe c).inUnits ∧ fpeCoreDec (fun i x => roundB Config.digest x i [0x6B] .sha256) 2 c = .ok v ∧
      utf8 v = .ok v ∧ (tight .fpe c).params.obufDepth < v.length := by
  have key : ∀ p : Units, p ≠ [] → p.length ≤ 64 → (∀ x ∈ p, x < 256) → ∃ c : Units, c.length ≤ 64 ∧
      (configured .fpe c).inputOk isByte ∧ c = (configured .fpe c).inUnits ∧
      fpeCoreDec (fun i x => roundB Config.digest x i [0x6B] .sha256) 2 c = .ok p := by
    intro p h0 h1 hp
    obtain ⟨c, -, hd, hl, hb⟩ := fpe_two_rounds Config.digest (kb := [0x6B]) (by decide) .sha256 h0 hp
    exact ⟨c, by omega, inputOk_bytes (by omega) hb,
      (configured_inUnits .fpe (by omega) fun x hx => by have := hb x hx; omega).symm, hd⟩
  refine ⟨⟨good_configured _ (by decide), latched_configured _ _, configured_key, rfl,
    ⟨by decide, by decide +kernel⟩, by decide +kernel⟩, ?_, ?_, ?_⟩
  · obtain ⟨c, a, b, d, e⟩ := key [0x41] (by decide) (by decide) (by decide)
    exact ⟨c, good_configured _ a, b, d, e, by decide⟩
  · obtain ⟨c, a, b, d, e⟩ := key [0xFF] (by decide) (by decide) (by decide)
    exact ⟨c, good_configured _ a, b, d, e, fun v => utf8_ne_ff v []⟩
  · obtain ⟨c, a, b, d, e⟩ := key (List.replicate 33 0x41) (by decide) (by decide) (by decide)
    exact ⟨c, _, good_tight _ a, ⟨rfl, rfl⟩, b, d, e, by decide, (by decide : 32 < (List.replicate 33 0x41).length)⟩

/-- A configured FRE with this integer. -/
def numbered (lo hi : Word) : State := { configured .fpe [] with numIn0 := lo, numIn1 := hi }

theorem good_numbered (lo hi : Word) : (numbered lo hi).Good :=
  { good_configured .fpe (c := []) (by decide) with }

/-- Zero, and the largest value of each width. -/
theorem met_NumberCommandsKeepTheWidth :
    (numbered 0 0).Good ∧ (numbered 0 0).latched .fpe ∧ (numbered 0 0).numIn = 0 ∧
    ((numbered 0xFFFF 0).Good ∧ (numbered 0xFFFF 0).numIn = 2 ^ (8 * 2) - 1) ∧
    ((numbered 0xFFFFFFFF 0).Good ∧ (numbered 0xFFFFFFFF 0).numIn = 2 ^ (8 * 4) - 1) ∧
    ((numbered 0xFFFFFFFF 0xFFFFFFFF).Good ∧ (numbered 0xFFFFFFFF 0xFFFFFFFF).numIn = 2 ^ 64 - 1) :=
  ⟨good_numbered _ _, latched_configured _ _, by decide, ⟨good_numbered _ _, by decide⟩, ⟨good_numbered _ _, by decide⟩,
    good_numbered _ _, by decide⟩

/-- 2^64; the first value past each explicit width; an AUTO command with no error before. -/
theorem met_NumberCommandsCheckTheMagnitude :
    (let s : State := { numbered 0 0 with numIn2 := 1 }; s.latched .fpe ∧ 2 ^ 64 ≤ s.numIn) ∧
    (2 ^ (8 * 2) ≤ (numbered 0x10000 0).numIn ∧ (numbered 0x10000 0).numIn < 2 ^ 64) ∧
    (2 ^ (8 * 4) ≤ (numbered 0 1).numIn ∧ (numbered 0 1).numIn < 2 ^ 64) ∧
    (numbered 0 1).errCode = 0 ∧ ∃ t, exec (.numEnc .auto) (numbered 0 1) = .next t :=
  ⟨⟨latched_configured _ _, by decide⟩, by decide, by decide, rfl, exec_next _ _⟩

/-- NUM_ENC of a value below 2^16 other than 0 writes the core's output on its two bytes. -/
theorem numbered_enc (w : Width) (n : Word) (c : Units) (hw : w = .two ∨ w = .auto) (h0 : (numbered n 0).numIn ≠ 0)
    (hn : (numbered n 0).numIn < 2 ^ 16)
    (hc : fpeCoreEnc (fun i x => roundB Config.digest x i [0x6B] .sha256) 2 (beBytes 2 (numbered n 0).numIn) = .ok c) :
    exec (.numEnc w) (numbered n 0) = .next ((numbered n 0).afterNumber (unBe c) 2) := by
  have hwd : widthBytes w (numbered n 0).numIn = 2 := by
    rcases hw with rfl | rfl
    · rfl
    · exact if_pos hn
  have ho : (numbered n 0).numOperand w = .ok ((numbered n 0).numIn, 2) := by
    rw [State.numOperand, hwd, if_neg (by omega), if_neg (by omega)]
  have hr : State.fpeEncrypt Config.digest (numbered n 0) (beBytes 2 (numbered n 0).numIn) = .ok c := by
    rw [State.fpeEncrypt, State.fpeRound_eq (s := numbered n 0) (e := .sha256) configured_key rfl]
    exact hc
  show (numbered n 0).finishNumber ((numbered n 0).numResult w (State.fpeEncrypt Config.digest (numbered n 0))) = _
  rw [State.numResult, State.require_ok (s := numbered n 0) (latched_configured .fpe []), bind_ok, ho, bind_ok]
  simp only
  rw [if_neg h0, hr, map_ok, State.finishNumber_ok]

/-- Zero; and one of the values 1 and 2 has an encryption other than 0, since the two have different ones. -/
theorem met_IntegerRoundTrips :
    ((numbered 0 0).Good ∧ (numbered 0 0).latched .fpe ∧ (numbered 0 0).numIn = 0 ∧
      ∃ t, exec (.numEnc .eight) (numbered 0 0) = .next t) ∧
    ∃ n ∈ [(1 : Word), 2], ∃ t : State, (numbered n 0).Good ∧ (numbered n 0).latched .fpe ∧
      (numbered n 0).numIn < 2 ^ (8 * 2) ∧ exec (.numEnc .two) (numbered n 0) = .next t ∧
      exec (.numEnc .auto) (numbered n 0) = .next t ∧ t.numOut ≠ 0 := by
  refine ⟨⟨good_numbered _ _, latched_configured _ _, by decide, exec_next _ _⟩, ?_⟩
  have two : ∀ p : Units, p.length = 2 → (∀ x ∈ p, x < 256) → unBe p < 65536 ∧ (unBe p = 0 → p = [0, 0]) := by
    intro p hl hp
    match p, hl with
    | [a, b], _ =>
      have ha := hp a (by simp)
      have hb := hp b (by simp)
      simp only [unBe, List.foldl_cons, List.foldl_nil, List.cons.injEq, and_true]
      omega
  have enc : ∀ n : Word, (numbered n 0).numIn ≠ 0 → (numbered n 0).numIn < 2 ^ 16 → ∃ c : Units,
      fpeCoreDec (fun i x => roundB Config.digest x i [0x6B] .sha256) 2 c = .ok (beBytes 2 (numbered n 0).numIn) ∧
      (c = [0, 0] ∨ (numbered n 0).Good ∧ (numbered n 0).latched .fpe ∧ ∃ t : State,
        exec (.numEnc .two) (numbered n 0) = .next t ∧ exec (.numEnc .auto) (numbered n 0) = .next t ∧ t.numOut ≠ 0) := by
    intro n h0 hn
    obtain ⟨c, he, hd, hl, hb⟩ := fpe_two_rounds Config.digest (kb := [0x6B]) (by decide) .sha256
      (p := beBytes 2 (numbered n 0).numIn) (by simp [beBytes]) (beBytes_bytes _ _)
    rw [beBytes_length] at hl
    refine ⟨c, hd, ?_⟩
    by_cases hz : unBe c = 0
    · exact .inl ((two c hl hb).2 hz)
    · refine .inr ⟨good_numbered _ _, latched_configured _ _, _, numbered_enc .two n c (.inl rfl) h0 hn he,
        numbered_enc .auto n c (.inr rfl) h0 hn he, ?_⟩
      have hlt := (two c hl hb).1
      show (BitVec.ofNat 32 (unBe c / 2 ^ 32)).toNat * 2 ^ 32 + (BitVec.ofNat 32 (unBe c)).toNat ≠ 0
      simp only [BitVec.toNat_ofNat]
      omega
  obtain ⟨c1, d1, h1⟩ := enc 1 (by decide) (by decide)
  obtain ⟨c2, d2, h2⟩ := enc 2 (by decide) (by decide)
  rcases h1 with rfl | ⟨g, l, t, a, b, o⟩
  · rcases h2 with rfl | ⟨g, l, t, a, b, o⟩
    · rw [d1] at d2
      exact absurd (Except.ok.inj d2) (by decide)
    · exact ⟨2, by decide, t, g, l, by decide, a, b, o⟩
  · exact ⟨1, by decide, t, g, l, by decide, a, b, o⟩

/-! ## Text and arithmetic laws -/

/-- The last scalar of each pattern; two texts; a surrogate after a letter; bytes that are no text. -/
theorem met_Utf8DecodingInvertsEncoding :
    (∀ c ∈ [(0x7F : Nat), 0x7FF, 0xFFFF, 0x10FFFF], isScalar c = true) ∧
      utf8 [0x41] = .ok [0x41] ∧ utf8 [0x20AC] = .ok [0xE2, 0x82, 0xAC] ∧
      (∃ c ∈ ([0x41, 0xD800] : Units), isScalar c = false) ∧ ∀ v, utf8 v ≠ .ok [0xFF] :=
  ⟨by decide, by decide, by decide, by decide, fun v => utf8_ne_ff v []⟩

theorem met_ByteAddIsUtf8OfTheSum : (0 : Nat) < 256 ∧ 255 < 256 := by decide

theorem met_HexMaskKeepsScalarsAndLength :
    isScalar 0x10FFFF = true ∧ isScalar 0xD7FF = true ∧ isScalar 0xE000 = true ∧ 0x7F ≤ 0x7F := by decide

end Sys2Proof.Tests
end

/-! # Commands and their words (spec R71, R74 to R77) -/

namespace Sys2Proof

/-- The decoder gives back a command from the fields it is written with. -/
theorem decodeRaw_raw (i : Instr) : decodeRaw i.raw = .ok i := by
  cases i with
  | nop | configureBal | configureMk | configureFpe | pad | unpad | b256Enc | b256Dec | balEnc | balDec | mkEnc | mkDec =>
    rfl
  | extract m | add m | xor m | round m => cases m <;> rfl
  | digest f | fpeEnc f | fpeDec f | fpeEncStr f | fpeDecStr f => cases f <;> rfl
  | numEnc w | numDec w => cases w <;> rfl

theorem decode_encode (i : Instr) : decode (encode i) = .ok i := (decode_pack i.raw).trans (decodeRaw_raw i)

/-! ## A word that decodes has the fields of its command -/

section

variable {r : RawCmd} {op : BitVec 8} {j : Instr} (hop : r.op = op) (hrsv : r.rsv = 0)

include hop hrsv

theorem raw_of_decodeNone {i : Instr} (hi : i.raw = ⟨op, 0, 0, 0, 0, 0⟩) (h : decodeNone r i = .ok j) : j.raw = r := by
  unfold decodeNone at h
  split_ifs at h with h0
  cases r
  simp_all

theorem raw_of_decodeF {i : Form → Instr} (hi : ∀ f, (i f).raw = ⟨op, f.bits, 0, 0, 0, 0⟩)
    (h : decodeF r i = .ok j) : j.raw = r := by
  unfold decodeF at h
  split_ifs at h with h0
  cases h
  cases r
  simp_all [formOf_bits]

theorem raw_of_decodeM {i : Mode → Instr} (hi : ∀ m, (i m).raw = ⟨op, 0, m.bits, 0, 0, 0⟩)
    (h : decodeM r i = .ok j) : j.raw = r := by
  unfold decodeM at h
  split_ifs at h with h0
  cases h
  cases r
  simp_all [modeOf_bits]

theorem raw_of_decodeW {i : Width → Instr} (hi : ∀ w, (i w).raw = ⟨op, 0, 0, w.bits, 0, 0⟩)
    (h : decodeW r i = .ok j) : j.raw = r := by
  unfold decodeW at h
  split_ifs at h with h0
  cases h
  cases r
  simp_all [widthOf_bits]

end

theorem raw_of_decodeConfigure {r : RawCmd} {j : Instr} (hop : r.op = 0x01) (hrsv : r.rsv = 0)
    (h : decodeConfigure r = .ok j) : j.raw = r := by
  unfold decodeConfigure at h
  split_ifs at h with h0 hv hv hv <;> cases h <;> cases r <;> simp_all [Instr.raw, Variant.bits]

/-- No field of a word that decodes is dropped (spec R74, R75). -/
theorem raw_of_decodeRaw {r : RawCmd} {i : Instr} (h : decodeRaw r = .ok i) : i.raw = r := by
  have hop : ∀ {n : Nat}, r.op.toNat = n → r.op = BitVec.ofNat 8 n := fun hn => by simp [← hn]
  unfold decodeRaw at h
  split_ifs at h with hr
  have hrsv : r.rsv = 0 := not_not.mp hr
  split at h <;> rename_i hn
  case h_2 => exact raw_of_decodeConfigure (hop hn) hrsv h
  case h_3 | h_4 | h_5 | h_9 => exact raw_of_decodeM (hop hn) hrsv (fun _ => rfl) h
  case h_8 | h_16 | h_17 | h_18 | h_19 => exact raw_of_decodeF (hop hn) hrsv (fun _ => rfl) h
  case h_20 | h_21 => exact raw_of_decodeW (hop hn) hrsv (fun _ => rfl) h
  case h_22 => cases h
  all_goals exact raw_of_decodeNone (hop hn) hrsv rfl h

/-- Every command is well-formed (spec R76). -/
theorem Instr.wf_eq_true (i : Instr) : i.wf = true := by
  cases i with
  | nop | configureBal | configureMk | configureFpe | pad | unpad | b256Enc | b256Dec | balEnc | balDec | mkEnc | mkDec =>
    decide
  | extract m | add m | xor m | round m => cases m <;> decide
  | digest f | fpeEnc f | fpeDec f | fpeEncStr f | fpeDecStr f => cases f <;> decide
  | numEnc w | numDec w => cases w <;> decide

/-- A word that decodes is legal (spec R76). -/
theorem legal_of_decode {w : Word} {i : Instr} (h : decode w = .ok i) : (fieldsOf w).legal = true := by
  rw [← raw_of_decodeRaw h]
  exact i.wf_eq_true

theorem decode_of_illegal {w : Word} (h : (fieldsOf w).legal = false) : ∃ e, decode w = .error e := by
  cases hd : decode w with
  | error e => exact ⟨e, rfl⟩
  | ok i => exact absurd (legal_of_decode hd) (by simp [h])

end Sys2Proof

/-! # The invariant of good states (spec R9, R24, R42, R47, R54, R86, R172, R181, R190)

Each named update of the machine keeps `State.Good`: a lemma an update, which gives the fields the update can break and
takes the others from the state before it. The inversion lemmas `exec_inv`, `State.busWrite_cases` and
`State.hostEvent_inv` then say that a step is one of these updates. -/

namespace Sys2Proof.Machine

theorem ErrCode.code_ne_zero (e : ErrCode) : e.code ≠ 0 := by cases e <;> decide

theorem State.engineStep_of_decode {s : State} {i : Instr} (h : decode s.cmd = .ok i) : s.engineStep = exec i s := by
  rw [engineStep, h]

/-- OLEN holds the length of an output that fits OBUF (spec R9, R42). -/
theorem State.afterOutput_olen {s : State} (h : s.params.legal) {v : Units} (hv : v.length ≤ s.params.obufDepth) :
    (s.afterOutput v).olen.toNat = v.length := by
  obtain ⟨-, -, ⟨-, hd⟩, -⟩ := h
  exact Nat.mod_eq_of_lt (by omega)

/-- All that the fields `configured` and `unlatched` of `State.Good` speak of. -/
def State.configView (s : State) :
    (Params × List (BitVec 16) × Memory × Nat) × (Word × BitVec 8 × BitVec 8) × Bool × Variant :=
  ((s.params, s.keyLen, s.key, s.memEpoch), (s.rounds, s.nkeys, s.engine), s.status.cfgValid, s.status.cfgVar)

/-- The checks of CONFIGURE rest on the view alone. -/
theorem State.checkConfig_of_configView {s t : State} (h : t.configView = s.configView) (v : Variant) :
    t.checkConfig v = s.checkConfig v := by
  simp only [configView, Prod.mk.injEq] at h
  obtain ⟨⟨hp, hl, hk, hm⟩, ⟨hr, hn, he⟩, -⟩ := h
  exact checkConfig_congr v hp hl hk hm hr hn he

namespace State.Good

variable {s : State}

theorem configured_of_view (h : s.Good) {t : State} (ht : t.configView = s.configView) :
    t.status.cfgValid = true → t.checkConfig t.status.cfgVar = .ok () := by
  simp only [checkConfig_of_configView ht]
  simp only [configView, Prod.mk.injEq] at ht
  obtain ⟨-, -, hvalid, hvar⟩ := ht
  rw [hvalid, hvar]
  exact h.configured

/-! ## The model's own fields and the bus's record -/

theorem reply (h : s.Good) (r : BusReply) : (s.reply r).Good := { h with configured := h.configured_of_view rfl }

theorem draw (h : s.Good) : s.draw.Good := { h with configured := h.configured_of_view rfl }

theorem withQueue (h : s.Good) (q : List HostOp) (d : Nat) :
    State.Good { s with hostQueue := q, engineDelay := d } := { h with configured := h.configured_of_view rfl }

/-! ## Registers that no other fact rests on, and the flags the HOST clears and sets -/

theorem withIrqEn (h : s.Good) (b : Bool) : State.Good { s with irqEn := b } :=
  { h with configured := h.configured_of_view rfl }

/-- The operand registers that are no part of the configuration (spec R196). -/
theorem withOperands (h : s.Good) (ks : BitVec 8) (il : BitVec 16) (a0 a1 n0 n1 n2 n3 : Word) :
    State.Good { s with
      keySel := ks, ilen := il, arg0 := a0, arg1 := a1, numIn0 := n0, numIn1 := n1, numIn2 := n2, numIn3 := n3 } :=
  { h with configured := h.configured_of_view rfl }

theorem overrun (h : s.Good) : s.overrun.Good := { h with configured := h.configured_of_view rfl }

/-- A W1C only clears flags (spec R24). -/
theorem w1c (h : s.Good) (v : Word) : (s.w1c v).Good :=
  { h with
    busyClear := fun hb => by
      obtain ⟨hd, he, hc⟩ := h.busyClear hb
      exact ⟨by simp [State.w1c, hd], by simp [State.w1c, he], hc⟩
    errHasCode := fun he => h.errHasCode (Bool.and_elim_left he)
    configured := h.configured_of_view rfl }

/-! ## Configuration and memory writes -/

/-- Whatever a write makes of the configuration registers and the key words, the latch is cleared with it (spec R47). -/
theorem reconfigured (h : s.Good) (e : BitVec 8) (r : Word) (n : BitVec 8) {kl : List (BitVec 16)} {k : Memory}
    (hl : kl.length = s.params.nkeysMax) (hw : k.wf)
    (hk : ∀ c ∈ k, c.1 / 0x40000 < s.params.nkeysMax ∧ c.1 % 0x40000 < 4 * s.params.keyDepth) :
    (State.invalidate { s with engine := e, rounds := r, nkeys := n, keyLen := kl, key := k }).Good :=
  { h with slots := hl, keyWf := hw, keyIn := hk, configured := nofun, unlatched := fun _ => rfl }

theorem keyWrite (h : s.Good) {k j : Nat} (hk : k < s.params.nkeysMax) (hj : j < s.params.keyDepth) (hw : j < 1024)
    (v : Word) : (State.invalidate { s with key := s.key.writeWord (keyAddr k j) v }).Good := by
  refine h.reconfigured s.engine s.rounds s.nkeys h.slots (Memory.wf_writeWord h.keyWf _ _) fun c hc => ?_
  rcases Memory.mem_writeWord hc with hc | hc
  · unfold keyAddr at hc
    rw [show c.1 / 0x40000 = k by omega]
    exact ⟨hk, by omega⟩
  · exact h.keyIn c hc

theorem ibufWrite (h : s.Good) {j : Nat} (hj : j < s.params.ibufDepth) (v : Word) :
    State.Good { s with ibuf := s.ibuf.writeWord (4 * j) v } :=
  { h with
    ibufWf := Memory.wf_writeWord h.ibufWf _ _
    ibufIn := fun c hc => by
      rcases Memory.mem_writeWord hc with hc | hc
      · show c.1 < 4 * s.params.ibufDepth
        omega
      · exact h.ibufIn c hc
    configured := h.configured_of_view rfl }

/-! ## Accept and reset -/

/-- An accept clears DONE, ERR and ERRCODE (spec R45); none is made while `rst` is asserted (spec R190). -/
theorem issue (h : s.Good) (hr : s.rst = false) (w : Word) : (s.issue w).Good :=
  { h with
    busyClear := fun _ => ⟨rfl, rfl, rfl⟩
    idleInReset := fun hr' => absurd (hr.symm.trans hr') Bool.false_ne_true
    codeKnown := .inl rfl
    errHasCode := nofun
    configured := h.configured_of_view rfl }

/-- A reset leaves a good state, at either level of `rst` (spec R54, R190, R192). -/
theorem hwReset (h : s.Good) (b : Bool) : State.Good { s.hwReset with rst := b } where
  params := h.params
  slots := List.length_replicate
  keyWf := .nil
  ibufWf := .nil
  obufWf := .nil
  keyIn := nofun
  ibufIn := nofun
  obufIn := nofun
  olenIn := Nat.zero_le _
  busyClear := nofun
  idleInReset := fun _ => rfl
  codeKnown := .inl rfl
  errHasCode := nofun
  configured := nofun
  unlatched := fun _ => rfl
  widthKnown := .inl rfl

/-- The release of `rst` (spec R190). -/
theorem release (h : s.Good) : State.Good { s with rst := false } := 
  { h with idleInReset := nofun, configured := h.configured_of_view rfl }

/-! ## Completions (spec R46, R174) -/

theorem afterDone (h : s.Good) : s.afterDone.Good :=
  { h with busyClear := nofun, idleInReset := fun _ => rfl, configured := h.configured_of_view rfl }

/-- Every completion with an error, before its class's error writes. -/
theorem failed (h : s.Good) (e : ErrCode) :
    State.Good { s with errCode := e.code, status := { s.status with busy := false, done := true, err := true } } :=
  { h with
    busyClear := nofun
    idleInReset := fun _ => rfl
    codeKnown := .inr ⟨e, rfl⟩
    errHasCode := fun _ => e.code_ne_zero
    configured := h.configured_of_view rfl }

/-- An output that fits is written below its own length (spec R42, R85). -/
theorem afterOutput (h : s.Good) {v : Units} (hv : v.length ≤ s.params.obufDepth) : (s.afterOutput v).Good := by
  have hlen := afterOutput_olen h.params hv
  exact { h.afterDone with
    obufWf := Memory.wf_writeUnits .nil 0 v
    obufIn := fun c hc => by
      rcases Memory.mem_writeUnits hc with hc | hc
      · omega
      · cases hc
    olenIn := hlen.trans_le hv
    configured := h.configured_of_view rfl }

theorem afterOutputError (h : s.Good) (e : ErrCode) : (s.afterOutputError e).Good :=
  { h.failed e with obufWf := .nil, obufIn := nofun, olenIn := Nat.zero_le _, configured := h.configured_of_view rfl }

theorem afterNumber (h : s.Good) {w : Nat} (hw : w = 2 ∨ w = 4 ∨ w = 8) (y : Nat) : (s.afterNumber y w).Good :=
  { h.afterDone with
    widthKnown := by rcases hw with rfl | rfl | rfl <;> simp [State.afterNumber]
    configured := h.configured_of_view rfl }

theorem afterNumberError (h : s.Good) (e : ErrCode) : (s.afterNumberError e).Good :=
  { h.failed e with widthKnown := .inl rfl, configured := h.configured_of_view rfl }

theorem afterLatch (h : s.Good) {v : Variant} (hc : s.checkConfig v = .ok ()) : (s.afterLatch v).Good :=
  { h.afterDone with
    configured := fun _ => (checkConfig_congr (s := s) (t := s.afterLatch v) v rfl rfl rfl rfl rfl rfl rfl).trans hc
    unlatched := nofun }

theorem afterConfigError (h : s.Good) (e : ErrCode) : (s.afterConfigError e).Good :=
  { h.failed e with configured := nofun, unlatched := fun _ => rfl }

/-! ## The ENGINE's turn -/

theorem exec {i : Instr} {t : State} (h : s.Good) (ht : exec i s = .next t) : t.Good := by
  rcases exec_inv ht with ⟨-, rfl⟩ | ⟨-, ⟨v, -, hv, rfl⟩ | ⟨e, rfl⟩⟩ | ⟨-, ⟨y, w, hw, rfl⟩ | ⟨e, rfl⟩⟩ |
    ⟨-, ⟨v, -, hc, rfl⟩ | ⟨e, rfl⟩⟩
  · exact h.afterDone
  · exact h.afterOutput hv
  · exact h.afterOutputError e
  · exact h.afterNumber hw y
  · exact h.afterNumberError e
  · exact h.afterLatch hc
  · exact h.afterConfigError e

theorem engineStep {t : State} (h : s.Good) (ht : s.engineStep = .next t) : t.Good := by
  cases hd : decode s.cmd with
  | ok i => exact h.exec (by rwa [engineStep_of_decode hd] at ht)
  | error e =>
    rw [engineStep_illegal hd] at ht
    cases ht
    exact h.failed .illegalCmd

/-! ## The outside world's turn -/

theorem writeRw (h : s.Good) (hr : s.rst = false) (r : Reg) (v : Word) : (s.writeRw r v).Good := by
  have hoperands := h.withOperands
  have hconfig := fun e r n => h.reconfigured e r n h.slots h.keyWf h.keyIn
  cases r with
  | cmd => exact h.issue hr v
  | engine => exact hconfig (v.setWidth 8) s.rounds s.nkeys
  | rounds => exact hconfig s.engine v s.nkeys
  | nkeys => exact hconfig s.engine s.rounds (v.setWidth 8)
  | keyLen =>
    show (s.writeKeyLen v).Good
    unfold State.writeKeyLen
    split
    · exact h.reconfigured s.engine s.rounds s.nkeys (by simpa using h.slots) h.keyWf h.keyIn
    · exact h
  | keySel => exact hoperands (v.setWidth 8) _ _ _ _ _ _ _
  | ilen => exact hoperands _ (v.setWidth 16) _ _ _ _ _ _
  | arg0 => exact hoperands _ _ v _ _ _ _ _
  | arg1 => exact hoperands _ _ _ v _ _ _ _
  | numIn0 => exact hoperands _ _ _ _ v _ _ _
  | numIn1 => exact hoperands _ _ _ _ _ v _ _
  | numIn2 => exact hoperands _ _ _ _ _ _ v _
  | numIn3 => exact hoperands _ _ _ _ _ _ _ v
  | id | ctrl | status | errCode | olen | numOut0 | numOut1 | numWidth | capIbuf | capObuf | capKey => exact h

theorem writeCtrl (h : s.Good) (v : Word) : (s.writeCtrl v).Good := by
  unfold State.writeCtrl
  split
  · exact h.hwReset s.rst
  · exact h.withIrqEn _

theorem hostWrite (h : s.Good) (hr : s.rst = false) (off : Nat) (v : Word) : (s.hostWrite off v).Good := by
  refine Good.reply ?_ .ack
  rcases s.busWrite_cases (s.target off) v with ⟨-, e⟩ | ⟨-, e⟩ | ⟨r, -, -, -, e⟩ | ⟨r, -, -, -, e⟩ | ⟨k, j, -, -, e⟩ |
    ⟨k, j, ht, -, e⟩ | ⟨j, -, -, e⟩ | ⟨j, ht, -, e⟩ | e <;> rw [e]
  · exact h.writeCtrl v
  · exact h.w1c v
  · exact h.overrun
  · exact h.writeRw hr r v
  · exact h.overrun
  · obtain ⟨-, hk, hj, hw⟩ := target_eq_key ht
    exact h.keyWrite hk hj hw v
  · exact h.overrun
  · exact h.ibufWrite (target_eq_ibuf ht) v
  · exact h

theorem hostRead (h : s.Good) (off : Nat) : (s.hostRead off).Good := by
  obtain ⟨w, e | e⟩ := s.hostRead_cases off <;> rw [e]
  · exact h.reply _
  · exact h.draw.reply _

theorem hostWait (h : s.Good) : s.hostWait.Good := by
  unfold State.hostWait
  dsimp only
  split
  · exact (h.reply _).withQueue _ s.engineDelay
  · exact h.reply _

theorem hostReadOut (h : s.Good) : s.hostReadOut.Good := by
  rw [hostReadOut_eq]
  exact (h.hostRead _).withQueue _ (s.hostRead Reg.olen.offset).engineDelay

theorem hostEvent {op : HostOp} {t : State} (h : s.Good) (ht : s.hostEvent op = .next t) : t.Good := by
  rcases hostEvent_inv ht with rfl | ⟨a, n, -, -, rfl⟩ | ⟨a, n, v, -, hr, -, rfl⟩ | ⟨-, rfl⟩ | ⟨-, -, rfl⟩ | ⟨-, rfl⟩ |
    ⟨-, rfl⟩
  · exact h.reply .dropped
  · exact h.hostRead _
  · exact h.hostWrite hr _ v
  · exact h.hostWait
  · exact h.hostReadOut
  · exact h.hwReset true
  · exact h.release

theorem hostTurn {t : State} (h : s.Good) (ht : s.hostTurn = .next t) : t.Good := by
  unfold State.hostTurn at ht
  split at ht
  · cases ht
    exact h
  · exact (h.withQueue _ _).hostEvent ht

end State.Good

/-- Settles O24: the ENGINE's turn keeps the invariant by `State.Good.engineStep`, the outside world's by
`State.Good.hostTurn`. -/
theorem stepKeepsGoodStates : Obligations.StepKeepsGoodStates := by
  unfold Obligations.StepKeepsGoodStates
  intro s t h ht
  unfold step at ht
  split at ht
  · exact h.engineStep ht
  · exact h.hostTurn ht

/-- Settles O25: a field at a time; the parameters are legal by `defaultParams_legal`. -/
theorem resetStateIsGood : Obligations.ResetStateIsGood := by
  unfold Obligations.ResetStateIsGood
  have hgood : State.reset.Good :=
    { params := defaultParams_legal
      slots := List.length_replicate
      keyWf := .nil
      ibufWf := .nil
      obufWf := .nil
      keyIn := nofun
      ibufIn := nofun
      obufIn := nofun
      olenIn := Nat.zero_le _
      busyClear := nofun
      idleInReset := nofun
      codeKnown := .inl rfl
      errHasCode := nofun
      configured := nofun
      unlatched := fun _ => rfl
      widthKnown := .inl rfl }
  have hkeyLen : ∀ k, State.reset.keyLenOf k = 0 := fun k => by simp [State.keyLenOf, State.reset]
  exact ⟨hgood, rfl, rfl, rfl, rfl, rfl, rfl, rfl, rfl, hkeyLen, rfl, rfl, rfl, rfl, rfl, rfl, rfl, rfl,
    fun _ => rfl, fun _ => rfl, fun _ _ => rfl, rfl, rfl, rfl⟩

end Sys2Proof.Machine

/-! # The register window (spec R23, R24, R31, R38 to R45, R47, R61) -/

namespace Sys2Proof.Machine

/-! ## The registers by kind -/

/-- The RW registers that the busy window protects, in the order of their offsets (spec R21, R44). -/
def rwRegs : List Reg :=
  [.cmd, .engine, .rounds, .nkeys, .keySel, .keyLen, .ilen, .arg0, .arg1, .numIn0, .numIn1, .numIn2, .numIn3]

/-- The read-only registers, in the order of their offsets (spec R21, R43). -/
def readOnlyRegs : List Reg :=
  [.id, .errCode, .olen, .numOut0, .numOut1, .numWidth, .capIbuf, .capObuf, .capKey]

/-- The registers of a configuration that belong to no key slot (spec R47). -/
def configRegs : List Reg := [.engine, .rounds, .nkeys]

/-- The RW registers that are no part of a configuration (spec R196). -/
def operandRegs : List Reg := [.keySel, .ilen, .arg0, .arg1, .numIn0, .numIn1, .numIn2, .numIn3]

theorem Reg.isRw_iff_mem {r : Reg} : r.isRw = true ↔ r ∈ rwRegs := by cases r <;> decide

theorem Reg.isResult_of_isRw {r : Reg} (h : r.isRw = true) : r.isResult = false := by revert h; cases r <;> decide

theorem Reg.isRw_of_configRegs : ∀ r ∈ configRegs, r.isRw = true := by decide

theorem Reg.isRw_of_operandRegs : ∀ r ∈ operandRegs, r.isRw = true := by decide

/-- A register named by its offset in a list of offsets. -/
theorem exists_reg_of_mem {regs : List Reg} {off : Nat} (h : off ∈ regs.map Reg.offset) :
    ∃ r ∈ regs, off = r.offset := by
  obtain ⟨r, hr, rfl⟩ := List.mem_map.mp h
  exact ⟨r, hr, rfl⟩

namespace State

variable {s : State} {v : Word}

/-! ## Reserved and read-only targets -/

theorem hostRead_reserved {off : Nat} (h : s.target off = .reserved) : s.hostRead off = s.reply (.data 0) := by
  rw [hostRead_eq, h]
  rfl

theorem hostWrite_reserved {off : Nat} (h : s.target off = .reserved) : s.hostWrite off v = s.reply .ack := by
  rw [hostWrite_eq, h]
  rfl

theorem hostWrite_readOnly {r : Reg} (h : r ∈ readOnlyRegs) : s.hostWrite r.offset v = s.reply .ack := by
  rw [hostWrite_reg]
  revert h
  cases r <;> simp [readOnlyRegs, busWrite, Reg.isRw]

/-- The reserved offsets, all beyond the registers. -/
theorem target_reserved {off : Nat}
    (h : (0x060 ≤ off ∧ off < 0x1000) ∨ (0x2000 ≤ off ∧ off < 0x4000) ∨
      (0x1000 ≤ off ∧ off < 0x2000 ∧ (s.params.keyDepth ≤ (off - 0x1000) / 4 ∨ s.params.nkeysMax ≤ s.keySel.toNat)) ∨
      (0x4000 ≤ off ∧ off < 0x8000 ∧ s.params.ibufDepth ≤ (off - 0x4000) / 4) ∨
      (0x8000 ≤ off ∧ off < 0x10000 ∧ s.params.obufDepth ≤ (off - 0x8000) / 4)) : s.target off = .reserved := by
  rcases s.target_cases (show 0x060 ≤ off by omega) with ⟨j, hj, hw, hd, hk, -⟩ | ⟨j, hj, hw, hd, -⟩ |
    ⟨j, hj, hw, hd, -⟩ | ht
  · omega
  · omega
  · omega
  · exact ht

theorem hostWrite_obufWindow {off : Nat} (h1 : 0x8000 ≤ off) (h2 : off < 0x10000) :
    s.hostWrite off v = s.reply .ack := by
  rcases s.target_cases (show 0x060 ≤ off by omega) with ⟨j, hj, hw, -⟩ | ⟨j, hj, hw, -⟩ | ⟨j, -, -, -, ht⟩ | ht
  · omega
  · omega
  · rw [hostWrite_eq, ht]
    rfl
  · exact hostWrite_reserved ht

/-! ## CTRL, STATUS, CMD and KEYLEN -/

theorem writeCtrl_reset (h : v.getLsbD 0 = true) : s.writeCtrl v = s.hwReset := if_pos h

theorem writeCtrl_irqEn (h : v.getLsbD 0 = false) : s.writeCtrl v = { s with irqEn := v.getLsbD 1 } :=
  if_neg (by rw [h]; exact Bool.false_ne_true)

theorem hostWrite_ctrl : s.hostWrite 0x004 v = (s.writeCtrl v).reply .ack := s.hostWrite_reg .ctrl v

theorem hostWrite_status : s.hostWrite 0x008 v = (s.w1c v).reply .ack := s.hostWrite_reg .status v

theorem hostWrite_cmd (hb : s.status.busy = false) : s.hostWrite 0x010 v = (s.issue v).reply .ack :=
  s.hostWrite_idle hb (r := .cmd) rfl v

theorem writeKeyLen_slot (h : s.keySel.toNat < s.params.nkeysMax) :
    s.writeKeyLen v = State.invalidate { s with keyLen := s.keyLen.set s.keySel.toNat (v.setWidth 16) } := if_pos h

theorem writeKeyLen_noSlot (h : s.params.nkeysMax ≤ s.keySel.toNat) : s.writeKeyLen v = s := if_neg (by omega)

theorem hostWrite_keyLen (hb : s.status.busy = false) : s.hostWrite 0x024 v = (s.writeKeyLen v).reply .ack :=
  s.hostWrite_idle hb (r := .keyLen) rfl v

/-! ## What a write does to STATUS and to the record -/

theorem writeRw_status_config {r : Reg} (h : r ∈ configRegs) : (s.writeRw r v).status = s.status.clearConfig := by
  revert h
  cases r <;> simp [configRegs, writeRw]

theorem writeRw_status_operand {r : Reg} (h : r ∈ operandRegs) : (s.writeRw r v).status = s.status := by
  revert h
  cases r <;> simp [operandRegs, writeRw]

/-- A RW register's write accepts a command, clears the latch, or leaves STATUS (spec R45, R47, R196). -/
theorem writeRw_status_cases (r : Reg) :
    (s.writeRw r v).status = s.status.accept ∨ (s.writeRw r v).status = s.status.clearConfig ∨
      (s.writeRw r v).status = s.status := by
  cases r with
  | cmd => exact .inl rfl
  | engine | rounds | nkeys => exact .inr (.inl rfl)
  | keyLen =>
    rcases Nat.lt_or_ge s.keySel.toNat s.params.nkeysMax with hk | hk
    · exact .inr (.inl (congrArg State.status (writeKeyLen_slot hk)))
    · exact .inr (.inr (congrArg State.status (writeKeyLen_noSlot hk)))
  | _ => exact .inr (.inr rfl)

/-- No HOST write sets CFG_VALID (spec R47). -/
theorem hostWrite_cfgValid (h : s.status.cfgValid = false) (off : Nat) : (s.hostWrite off v).status.cfgValid = false := by
  show (s.busWrite (s.target off) v).status.cfgValid = false
  rcases s.busWrite_cases (s.target off) v with ⟨-, e⟩ | ⟨-, e⟩ | ⟨r, -, -, -, e⟩ | ⟨r, -, -, -, e⟩ | ⟨k, j, -, -, e⟩ |
    ⟨k, j, -, -, e⟩ | ⟨j, -, -, e⟩ | ⟨j, -, -, e⟩ | e <;> rw [e]
  · unfold writeCtrl
    split
    · rfl
    · exact h
  · exact h
  · exact h
  · rcases s.writeRw_status_cases r with e | e | e <;> rw [e]
    · exact h
    · rfl
    · exact h
  · exact h
  · rfl
  · exact h
  · exact h
  · exact h

/-- No event of the outside world sets CFG_VALID (spec R47). -/
theorem hostEvent_cfgValid {t : State} {op : HostOp} (h : s.status.cfgValid = false) (ht : s.hostEvent op = .next t) :
    t.status.cfgValid = false := by
  have hread : ∀ off, (s.hostRead off).status.cfgValid = false := fun off => by
    obtain ⟨w, e | e⟩ := s.hostRead_cases off <;> rw [e] <;> exact h
  rcases hostEvent_inv ht with rfl | ⟨a, n, -, -, rfl⟩ | ⟨a, n, v, -, -, -, rfl⟩ | ⟨-, rfl⟩ | ⟨-, -, rfl⟩ | ⟨-, rfl⟩ |
    ⟨-, rfl⟩
  · exact h
  · exact hread _
  · exact hostWrite_cfgValid h _
  · unfold hostWait
    dsimp only
    split <;> exact h
  · rw [hostReadOut_eq]
    exact hread Reg.olen.offset
  · rfl
  · exact h

end State

/-! ## The busy window, reserved offsets and the latch -/

/-- Settles O6: each of the offsets reaches a target that the busy window protects. -/
theorem busyWindowIgnoresOperandWrites : Obligations.BusyWindowIgnoresOperandWrites := by
  unfold Obligations.BusyWindowIgnoresOperandWrites
  intro s off v hb hoff
  have htarget : (∃ r, s.target off = .reg r ∧ r.isRw = true) ∨ (∃ k j, s.target off = .key k j) ∨
      ∃ j, s.target off = .ibuf j := by
    rcases hoff with hoff | ⟨j, hj, hw, hk, rfl⟩ | ⟨j, hj, hw, rfl⟩
    · obtain ⟨r, hr, rfl⟩ := exists_reg_of_mem (regs := rwRegs) hoff
      exact .inl ⟨r, s.target_offset r, Reg.isRw_iff_mem.mpr hr⟩
    · exact .inr (.inl ⟨_, j, s.target_key hj hw hk⟩)
    · exact .inr (.inr ⟨j, s.target_ibuf hj hw⟩)
  rw [State.hostWrite_eq, State.busWrite_busy hb v htarget]
  rfl

/-- Settles O7: by what the offset reaches. -/
theorem reservedOffsetsReadZeroAndIgnoreWrites : Obligations.ReservedOffsetsReadZeroAndIgnoreWrites := by
  unfold Obligations.ReservedOffsetsReadZeroAndIgnoreWrites
  intro s off v _
  refine ⟨fun h => ?_, ?_⟩
  · have ht := State.target_reserved h
    exact ⟨State.hostRead_reserved ht, State.hostWrite_reserved ht⟩
  · rintro (h | ⟨h1, h2⟩)
    · obtain ⟨r, hr, rfl⟩ := exists_reg_of_mem (regs := readOnlyRegs) h
      exact State.hostWrite_readOnly hr
    · exact State.hostWrite_obufWindow h1 h2

/-- Settles O8: the writes by their targets, a command by `exec_inv`, an event by `State.hostEvent_cfgValid`. -/
theorem configurationWritesInvalidate : Obligations.ConfigurationWritesInvalidate := by
  unfold Obligations.ConfigurationWritesInvalidate
  refine ⟨?_, ?_, ?_, fun op s t => State.hostEvent_cfgValid⟩
  · rintro s off v hb (h | ⟨rfl, hk⟩ | ⟨j, hj, hw, hk, rfl⟩)
    · obtain ⟨r, hr, rfl⟩ := exists_reg_of_mem (regs := configRegs) h
      rw [State.hostWrite_idle hb (Reg.isRw_of_configRegs r hr)]
      exact State.writeRw_status_config hr
    · rw [State.hostWrite_keyLen hb, State.writeKeyLen_slot hk]
      rfl
    · rw [State.hostWrite_key hb hj hw hk]
      rfl
  · rintro s off v hb (h | ⟨rfl, hk⟩ | ⟨j, hj, hw, rfl⟩)
    · obtain ⟨r, hr, rfl⟩ := exists_reg_of_mem (regs := operandRegs) h
      rw [State.hostWrite_idle hb (Reg.isRw_of_operandRegs r hr)]
      exact State.writeRw_status_operand hr
    · rw [State.hostWrite_keyLen hb, State.writeKeyLen_noSlot hk]
      rfl
    · rw [State.hostWrite_ibuf hb hj hw]
      rfl
  · intro i s t h0 ht h1
    rcases exec_inv ht with ⟨-, rfl⟩ | ⟨-, ⟨v, -, -, rfl⟩ | ⟨e, rfl⟩⟩ | ⟨-, ⟨y, w, -, rfl⟩ | ⟨e, rfl⟩⟩ |
      ⟨-, ⟨v, hv, hc, rfl⟩ | ⟨e, rfl⟩⟩
    case inr.inr.inr.inl => exact ⟨v, hv, hc, rfl⟩
    case inr.inr.inr.inr => cases h1
    all_goals cases h0.symm.trans h1

/-! ## RW registers read back (spec R38) -/

/-- The bits of a RW register's field (spec R26 to R35). -/
def Reg.fieldMask : Reg → Word
  | .engine | .nkeys | .keySel => 0xFF
  | .keyLen | .ilen => 0xFFFF
  | _ => 0xFFFFFFFF

/-- Cutting a word to its low bits and widening it again is masking it. -/
theorem setWidth_setWidth_eq_and (v : Word) (k : Nat) (hk : k ≤ 32) :
    (v.setWidth k).setWidth 32 = v &&& BitVec.ofNat 32 (2 ^ k - 1) := by
  apply BitVec.eq_of_toNat_eq
  have hv : v.toNat % 2 ^ k < 2 ^ 32 := (Nat.mod_le _ _).trans_lt v.isLt
  have hm : 2 ^ k - 1 < 2 ^ 32 := (Nat.sub_lt (by positivity) one_pos).trans_le (Nat.pow_le_pow_right two_pos hk)
  rw [BitVec.toNat_setWidth, BitVec.toNat_setWidth, BitVec.toNat_and, BitVec.toNat_ofNat, Nat.mod_eq_of_lt hv,
    Nat.mod_eq_of_lt hm, Nat.and_two_pow_sub_one_eq_mod]

namespace State

variable {s : State} {v : Word}

theorem readReg_reply (b : BusReply) (r : Reg) : (s.reply b).readReg r = s.readReg r := by cases r <;> rfl

theorem writeRw_hostLog (r : Reg) : (s.writeRw r v).hostLog = s.hostLog := by
  cases r with
  | keyLen =>
    show (s.writeKeyLen v).hostLog = s.hostLog
    unfold writeKeyLen
    split <;> rfl
  | _ => rfl

/-- What an idle write to a RW register and a read of it leave in the record. -/
theorem hostRead_hostWrite_log (hb : s.status.busy = false) {r : Reg} (hr : r.isRw = true) :
    ((s.hostWrite r.offset v).hostRead r.offset).hostLog =
      .data ((s.writeRw r v).readReg r) :: .ack :: s.hostLog := by
  rw [hostWrite_idle hb hr, hostRead_reg _ (Reg.isResult_of_isRw hr), readReg_reply, reply_hostLog, reply_hostLog,
    writeRw_hostLog]

theorem readReg_writeRw {r : Reg} (hr : r.isRw = true) (hk : r ≠ .keyLen) :
    (s.writeRw r v).readReg r = v &&& r.fieldMask := by
  cases r with
  | engine | nkeys | keySel => exact setWidth_setWidth_eq_and v 8 (by decide)
  | ilen => exact setWidth_setWidth_eq_and v 16 (by decide)
  | keyLen => exact absurd rfl hk
  | cmd | rounds | arg0 | arg1 | numIn0 | numIn1 | numIn2 | numIn3 => exact BitVec.and_allOnes.symm
  | id | ctrl | status | errCode | olen | numOut0 | numOut1 | numWidth | capIbuf | capObuf | capKey => cases hr

theorem keyLenRead_noSlot (h : s.params.nkeysMax ≤ s.keySel.toNat) : s.keyLenRead = 0 := if_neg (by omega)

theorem readReg_writeKeyLen_slot (h : s.keySel.toNat < s.params.nkeysMax) (hl : s.keyLen.length = s.params.nkeysMax) :
    (s.writeKeyLen v).readReg .keyLen = v &&& 0xFFFF := by
  have hread : (s.writeKeyLen v).keyLenRead = v.setWidth 16 := by
    simp [writeKeyLen_slot h, keyLenRead, keyLenOf, h, hl]
  show (s.writeKeyLen v).keyLenRead.setWidth 32 = _
  rw [hread]
  exact setWidth_setWidth_eq_and v 16 (by decide)

theorem readReg_writeKeyLen_noSlot (h : s.params.nkeysMax ≤ s.keySel.toNat) :
    (s.writeKeyLen v).readReg .keyLen = 0 := by
  show (s.writeKeyLen v).keyLenRead.setWidth 32 = _
  rw [writeKeyLen_noSlot h, keyLenRead_noSlot h]
  rfl

/-- CTRL has one field, bit 1 (spec R23). -/
theorem ctrlWord_irqEn (s : State) (v : Word) : State.ctrlWord { s with irqEn := v.getLsbD 1 } = v &&& 2 := by
  rw [show (2 : Word) = BitVec.twoPow 32 1 from rfl, BitVec.and_twoPow]
  show (0 : BitVec 30) ++ BitVec.ofBool (v.getLsbD 1) ++ (0 : BitVec 1) = _
  cases v.getLsbD 1 <;> rfl

theorem hwReset_ctrlWord (s : State) : s.hwReset.ctrlWord = 0 := by
  rw [ctrlWord, hwReset_irqEn]
  rfl

theorem hostRead_hostWrite_ctrl_log :
    ((s.hostWrite 0x004 v).hostRead 0x004).hostLog =
      .data (s.writeCtrl v).ctrlWord :: .ack :: (s.writeCtrl v).hostLog := by
  rw [hostWrite_ctrl]
  exact congrArg State.hostLog (hostRead_reg ((s.writeCtrl v).reply .ack) (r := .ctrl) rfl)

end State

/-- Settles O9: the value read back is `State.readReg_writeRw`; the frames are `State.writeRw`, register by register. -/
theorem registersStoreOnlyTheirFieldBits : Obligations.RegistersStoreOnlyTheirFieldBits := by
  unfold Obligations.RegistersStoreOnlyTheirFieldBits
  intro s v hb
  have hwrite : ∀ r : Reg, r.isRw = true → s.hostWrite r.offset v = (s.writeRw r v).reply .ack :=
    fun r hr => State.hostWrite_idle hb hr v
  refine ⟨fun e he => ?_, fun hk hl => ?_, fun hk => ?_, fun h => ?_, fun h => ?_, hwrite .engine rfl,
    hwrite .rounds rfl, hwrite .nkeys rfl, hwrite .keySel rfl, fun hk => ?_, fun hk => ?_, hwrite .ilen rfl,
    hwrite .arg0 rfl, hwrite .arg1 rfl, hwrite .numIn0 rfl, hwrite .numIn1 rfl, hwrite .numIn2 rfl,
    hwrite .numIn3 rfl, fun h => ?_⟩
  · obtain ⟨r, hr, rfl⟩ := List.mem_map.mp
      (show e ∈ (rwRegs.filter (· ≠ .keyLen)).map (fun r => (r.offset, r.fieldMask)) from he)
    obtain ⟨hr, hk⟩ := List.mem_filter.mp hr
    have hrw := Reg.isRw_iff_mem.mpr hr
    rw [State.hostRead_hostWrite_log hb hrw, State.readReg_writeRw hrw (of_decide_eq_true hk)]
  · exact (State.hostRead_hostWrite_log hb (r := .keyLen) rfl).trans
      (congrArg (.data · :: .ack :: s.hostLog) (State.readReg_writeKeyLen_slot hk hl))
  · exact (State.hostRead_hostWrite_log hb (r := .keyLen) rfl).trans
      (congrArg (.data · :: .ack :: s.hostLog) (State.readReg_writeKeyLen_noSlot hk))
  · rw [State.hostRead_hostWrite_ctrl_log, State.writeCtrl_irqEn h, State.ctrlWord_irqEn]
  · rw [State.hostRead_hostWrite_ctrl_log, State.writeCtrl_reset h, State.hwReset_ctrlWord,
      State.hwReset_hostLog]
  · rw [State.hostWrite_keyLen hb, State.writeKeyLen_slot hk]
    rfl
  · rw [State.hostWrite_keyLen hb, State.writeKeyLen_noSlot hk]
    rfl
  · rw [State.hostWrite_ctrl, State.writeCtrl_irqEn h]
    rfl

end Sys2Proof.Machine

/-! # Buffers, STATUS, reset and the interrupt line (spec R24, R40 to R42, R48, R54, R85, R174, R179, R190) -/

namespace Sys2Proof.Machine

/-! ## KEY, IBUF and OBUF words -/

namespace State

variable {s : State}

theorem ibufWord_ibufWrite_same (j : Nat) (v : Word) :
    State.ibufWord { s with ibuf := s.ibuf.writeWord (4 * j) v } j = v :=
  Memory.readWord_writeWord_same _ _ _ _

theorem ibufWord_ibufWrite_other {j x : Nat} (h : x ≠ j) (v : Word) :
    State.ibufWord { s with ibuf := s.ibuf.writeWord (4 * j) v } x = s.ibufWord x :=
  Memory.readWord_writeWord_other _ _ _ _ _ (by omega)

/-- The banks of the key slots do not overlap (log 12). -/
theorem keyAddr_disjoint {k k' j x : Nat} (hj : j < 65536) (hx : x < 65536) (h : ¬ (k = k' ∧ x = j)) :
    keyAddr k x + 4 ≤ keyAddr k' j ∨ keyAddr k' j + 4 ≤ keyAddr k x := by
  unfold keyAddr
  omega

theorem keyWord_keyWrite_same (k j : Nat) (v : Word) :
    State.keyWord { s with key := s.key.writeWord (keyAddr k j) v } k j = v :=
  Memory.readWord_writeWord_same _ _ _ _

theorem keyWord_keyWrite_other {k k' j x : Nat} (hj : j < 65536) (hx : x < 65536) (h : ¬ (k = k' ∧ x = j)) (v : Word) :
    State.keyWord { s with key := s.key.writeWord (keyAddr k' j) v } k x = s.keyWord k x :=
  Memory.readWord_writeWord_other _ _ _ _ _ (keyAddr_disjoint hj hx h)

end State

/-- Settles O10: the memory laws, at the word the write or the output names and at the others. -/
theorem bufferWordsReadBack : Obligations.BufferWordsReadBack := by
  unfold Obligations.BufferWordsReadBack
  refine ⟨fun s j v hb hj hw => ?_, fun s j v hb hj hw hk => ?_, fun s v hp hv => ?_, fun s e => ⟨rfl, fun _ => rfl⟩⟩
  · rw [State.hostWrite_ibuf hb hj hw]
    exact ⟨_, rfl, State.ibufWord_ibufWrite_same j v, fun x hx => State.ibufWord_ibufWrite_other hx v⟩
  · rw [State.hostWrite_key hb hj hw hk]
    exact ⟨_, rfl, State.keyWord_keyWrite_same _ j v,
      fun k x hx hne => State.keyWord_keyWrite_other (by omega) hx hne v⟩
  · refine ⟨State.afterOutput_olen hp hv, fun j => ⟨fun hj => ?_, fun hj => ?_⟩⟩
    · rw [List.getD_eq_getElem _ _ hj]
      exact s.outWrite_obufWord v j hj
    · exact s.outWrite_obufWord_beyond v j hj

/-! ## STATUS (spec R24) -/

theorem cfgVarBits_bit (v : Variant) (n : Nat) :
    (cfgVarBits v).getLsbD n = if n = 0 then decide (v = .mk) else if n = 1 then decide (v = .fpe) else false := by
  rcases n with _ | _ | n
  · cases v <;> rfl
  · cases v <;> rfl
  · exact BitVec.getLsbD_of_ge _ _ (by omega)

theorem Status.word_bit (st : Status) (n : Nat) : st.word.getLsbD n =
    if n = 0 then st.busy else if n = 1 then st.done else if n = 2 then st.err else if n = 3 then st.ovr
    else if n = 4 then st.cfgValid else if n = 5 then decide (st.cfgVar = .mk)
    else if n = 6 then decide (st.cfgVar = .fpe) else false := by
  simp only [Status.word, BitVec.getLsbD_append, BitVec.getLsbD_ofBool, cfgVarBits_bit]
  rcases n with _ | _ | _ | _ | _ | _ | _ | n <;> simp
theorem Status.w1c_eq (st : Status) (v : Word) : st.w1c v = { st with
    done := if v.getLsbD 1 then false else st.done
    err := if v.getLsbD 2 then false else st.err
    ovr := if v.getLsbD 3 then false else st.ovr } := by
  have hclear : ∀ b m : Bool, (b && !m) = if m then false else b := by decide
  simp only [Status.w1c, hclear]

/-- Settles O11: the bits by `Status.word_bit`, the write by `Status.w1c_eq`. -/
theorem statusReadsAndClearsByWritingOne : Obligations.StatusReadsAndClearsByWritingOne := by
  unfold Obligations.StatusReadsAndClearsByWritingOne
  refine ⟨fun s n => s.status.word_bit n, fun s v => ?_⟩
  rw [State.hostWrite_status, State.w1c, Status.w1c_eq]
  rfl

/-! ## Reset (spec R54, R190, R192) -/

/-- Settles O12: `State.hwReset` field by field. -/
theorem resetLeavesTheStatedValues : Obligations.ResetLeavesTheStatedValues := by
  unfold Obligations.ResetLeavesTheStatedValues
  intro s
  have hkeyLen : ∀ k, s.hwReset.keyLenOf k = 0 := fun k => by simp [State.keyLenOf]
  refine ⟨rfl, rfl, fun v h => ?_, rfl, hkeyLen, fun _ => rfl, fun _ => rfl, fun _ _ => rfl⟩
  rw [State.hostWrite_ctrl, State.writeCtrl_reset h]
  rfl

/-! ## The interrupt line (spec R48, R179) -/

/-- The ENGINE's step leaves IRQ_EN and sets DONE. -/
theorem State.engineStep_irq {s t : State} (h : s.engineStep = .next t) : t.irq = s.irqEn := by
  have hirq : t.irqEn = s.irqEn ∧ t.status.done = true := by
    cases hd : decode s.cmd with
    | ok i =>
      rw [engineStep_of_decode hd] at h
      rcases exec_inv h with ⟨-, rfl⟩ | ⟨-, ⟨v, -, -, rfl⟩ | ⟨e, rfl⟩⟩ | ⟨-, ⟨y, w, -, rfl⟩ | ⟨e, rfl⟩⟩ |
        ⟨-, ⟨v, -, -, rfl⟩ | ⟨e, rfl⟩⟩ <;> exact ⟨rfl, rfl⟩
    | error e =>
      rw [engineStep_illegal hd] at h
      cases h
      exact ⟨rfl, rfl⟩
  rw [irq, hirq.1, hirq.2, Bool.and_true]

/-- Settles O13: a completion by `State.engineStep_irq`, each write by what it makes of IRQ_EN and DONE. -/
theorem interruptLineFollowsDone : Obligations.InterruptLineFollowsDone := by
  unfold Obligations.InterruptLineFollowsDone
  refine ⟨fun s => Bool.and_eq_true_iff, fun s t => State.engineStep_irq, fun s v h => ?_, fun s v hb => ?_,
    fun s t h => ?_, fun s v h => ?_, fun s v h => ?_⟩
  · rw [State.hostWrite_status]
    simp [State.irq, State.w1c, h]
  · rw [State.hostWrite_cmd hb]
    simp [State.irq]
  · cases h
    rfl
  · rw [State.hostWrite_ctrl, State.writeCtrl_reset h]
    rfl
  · rw [State.hostWrite_ctrl, State.writeCtrl_irqEn h]
    exact ⟨rfl, rfl⟩

/-! # Commands and the step (spec R45, R46, R64, R172, R205) -/

/-- Settles O17: by the completions of `exec_cases`. -/
theorem everyCommandCompletes : Obligations.EveryCommandCompletes := by
  unfold Obligations.EveryCommandCompletes
  refine ⟨fun e => by cases e <;> decide, fun i s => ?_⟩
  rcases exec_cases i s with ⟨-, h⟩ | ⟨-, ⟨v, -, -, h⟩ | ⟨e, h⟩⟩ | ⟨-, ⟨y, w, -, h⟩ | ⟨e, h⟩⟩ |
    ⟨-, ⟨v, -, -, h⟩ | ⟨e, h⟩⟩
  · exact ⟨_, h, rfl, rfl, .inl ⟨rfl, rfl⟩⟩
  · exact ⟨_, h, rfl, rfl, .inl ⟨rfl, rfl⟩⟩
  · exact ⟨_, h, rfl, rfl, .inr ⟨rfl, e, rfl⟩⟩
  · exact ⟨_, h, rfl, rfl, .inl ⟨rfl, rfl⟩⟩
  · exact ⟨_, h, rfl, rfl, .inr ⟨rfl, e, rfl⟩⟩
  · exact ⟨_, h, rfl, rfl, .inl ⟨rfl, rfl⟩⟩
  · exact ⟨_, h, rfl, rfl, .inr ⟨rfl, e, rfl⟩⟩

theorem State.withFetchWord_encode_cmd (s : State) (i : Instr) :
    (s.withFetchWord 32 (encode i).toNat).cmd = encode i := by
  show BitVec.ofNat 32 ((encode i).toNat % 2 ^ 32) = encode i
  rw [Nat.mod_eq_of_lt (encode i).isLt, BitVec.ofNat_toNat, BitVec.setWidth_eq]

/-- Settles O4: the ENGINE's turn by `step_engine`, any other by `step_host`. -/
theorem stepRunsThePendingCommand : Obligations.StepRunsThePendingCommand := by
  unfold Obligations.StepRunsThePendingCommand
  refine ⟨fun s i hb hturn hd => ?_, fun s e hb hturn hd => ?_, fun s => step_host, fun s op q hturn hq =>
    step_event hq hturn, fun s hq hb => ?_, fun s i => ?_⟩
  · rw [step_engine hb hturn, State.engineStep_of_decode hd]
  · rw [step_engine hb hturn, State.engineStep_illegal hd]
    rfl
  · rw [step_host (.inl hb), State.hostTurn, hq]
  · rw [step_engine rfl (.inl rfl), State.engineStep_of_decode]
    rw [State.withFetchWord_encode_cmd, decode_encode]

/-- Settles O5: the accept by `State.hostWrite_cmd`, and a word that is not legal decodes to no command. -/
theorem commandWriteIsAccepted : Obligations.CommandWriteIsAccepted := by
  unfold Obligations.CommandWriteIsAccepted
  intro s w hb
  rw [State.hostWrite_cmd hb]
  refine ⟨⟨_, _, rfl⟩, fun hw => ?_⟩
  obtain ⟨e, he⟩ := decode_of_illegal hw
  rw [State.engineStep_illegal (s := (s.issue w).reply .ack) he]
  rfl

end Sys2Proof.Machine

/-! # Reads, admission and the life of a result (spec R50, R59, R61 to R65, R80, R190) -/

namespace Sys2Proof.Machine

namespace State

variable {s : State}

/-! ## The value a read answers with (spec R22 to R42, R61) -/

/-- What a HOST read at a window offset answers with. -/
def readValue (s : State) (off : Nat) : Word := (s.busRead (s.target off)).1

/-- While idle a read takes no draw (spec R61). -/
theorem busRead_idle_state (hb : s.status.busy = false) (t : Target) : (s.busRead t).2 = s := by
  cases t with
  | reg r => simp [busRead, hb]
  | obuf j => simp [busRead, hb]
  | key k j | ibuf j | reserved => rfl

theorem hostRead_readValue (hb : s.status.busy = false) (off : Nat) :
    s.hostRead off = s.reply (.data (s.readValue off)) := by
  rw [hostRead_eq, busRead_idle_state hb]
  rfl

theorem readValue_reg (hb : s.status.busy = false) (r : Reg) : s.readValue r.offset = s.readReg r := by
  simp [readValue, busRead, hb]

theorem readValue_obuf (hb : s.status.busy = false) {j : Nat} (hj : j < s.params.obufDepth) (hw : j < 8192) :
    s.readValue (0x8000 + 4 * j) = s.obufWord j := by
  simp [readValue, target_obuf hj hw, busRead, hb]

/-- A register list read at its offsets, from what a read of each register does. -/
theorem hostRead_regs {regs : List Reg} (h : ∀ r ∈ regs, s.hostRead r.offset = s.reply (.data (s.readReg r))) :
    ∀ e ∈ regs.map fun r => (r.offset, s.readReg r), s.hostRead e.1 = s.reply (.data e.2) := by
  rintro e he
  obtain ⟨r, hr, rfl⟩ := List.mem_map.mp he
  exact h r hr

/-- CTRL reads IRQ_EN in bit 1 and 0 elsewhere (spec R23). -/
theorem ctrlWord_eq (s : State) : s.ctrlWord = if s.irqEn then 2 else 0 := by
  unfold ctrlWord
  cases s.irqEn <;> rfl

theorem readReg_keyLen (s : State) : s.readReg .keyLen =
    if s.keySel.toNat < s.params.nkeysMax then (s.keyLenOf s.keySel.toNat).setWidth 32 else 0 :=
  apply_ite (BitVec.setWidth 32) _ _ _

/-- CAP_KEY holds NKEYS_MAX above KEY_DEPTH (spec R39). -/
theorem readReg_capKey (h : s.params.legal) :
    s.readReg .capKey = BitVec.ofNat 32 (s.params.nkeysMax * 2 ^ 16 + s.params.keyDepth) := by
  obtain ⟨-, -, -, ⟨-, hd⟩, ⟨-, hn⟩, -⟩ := h
  apply BitVec.eq_of_toNat_eq
  have hd16 : s.params.keyDepth % 2 ^ 16 = s.params.keyDepth := Nat.mod_eq_of_lt (by omega)
  have hn8 : s.params.nkeysMax % 2 ^ 8 = s.params.nkeysMax := Nat.mod_eq_of_lt (by omega)
  simp only [readReg, BitVec.toNat_append, BitVec.toNat_ofNat, hd16, hn8]
  rw [← Nat.shiftLeft_add_eq_or_of_lt (by omega)]
  simp [Nat.shiftLeft_eq]
  omega

end State

/-- The registers whose current value a read returns busy or idle, in the order of their offsets (spec R50). -/
def currentRegs : List Reg :=
  [.id, .ctrl, .status, .cmd, .engine, .rounds, .nkeys, .keySel, .keyLen, .ilen, .arg0, .arg1,
   .numIn0, .numIn1, .numIn2, .numIn3]

/-- The result registers (spec R50). -/
def resultRegs : List Reg := [.errCode, .olen, .numOut0, .numOut1, .numWidth]

/-- The width of a result register's field (spec R25, R33, R36, R37). -/
def Reg.resultWidth : Reg → Nat
  | .errCode => 8
  | .olen => 16
  | .numWidth => 4
  | _ => 32

theorem Reg.isResult_of_currentRegs : ∀ r ∈ currentRegs, r.isResult = false := by decide

theorem Reg.isResult_of_resultRegs : ∀ r ∈ resultRegs, r.isResult = true := by decide

/-- Cutting a word to `k` bits bounds it, whatever it is widened to. -/
theorem toNat_setWidth_setWidth_lt (w : Word) (k : Nat) : ((w.setWidth k).setWidth 32).toNat < 2 ^ k := by
  rw [BitVec.toNat_setWidth]
  exact (Nat.mod_le _ _).trans_lt (w.setWidth k).isLt

/-- A free value keeps the width of its register's field (log 7). -/
theorem Reg.freeValue_lt (r : Reg) (w : Word) : (r.freeValue w).toNat < 2 ^ r.resultWidth := by
  cases r with
  | errCode => exact toNat_setWidth_setWidth_lt w 8
  | olen => exact toNat_setWidth_setWidth_lt w 16
  | numWidth => exact toNat_setWidth_setWidth_lt w 4
  | _ => exact w.isLt

/-! ## A run of reads (spec R64, R80) -/

/-- The window stands at a multiple of 4 (spec R9). -/
theorem base_mod_four {p : Params} (h : p.legal) : p.base % 4 = 0 := by
  obtain ⟨hbase, -⟩ := h
  omega

namespace State

variable {s : State}

/-- The state after reads that the bus answered with `ws`, with `q` still to come. -/
def afterReads (s : State) (q : List HostOp) (ws : List Word) : State :=
  { s with
    hostQueue := q, engineDelay := s.engineDelay - ws.length,
    hostLog := (ws.map BusReply.data).reverse ++ s.hostLog }

theorem afterReads_nil {q : List HostOp} (hq : s.hostQueue = q) : s.afterReads q [] = s := by
  subst hq
  rfl

theorem afterReads_of_length (q : List HostOp) {ws : List Word} {n : Nat} (h : ws.length = n) :
    s.afterReads q ws = { s with
      hostQueue := q, engineDelay := s.engineDelay - n, hostLog := (s.afterReads q ws).hostLog } := by
  subst h
  rfl

theorem afterReads_cons (q q' : List HostOp) (w : Word) (ws : List Word) :
    (s.afterReads q' [w]).afterReads q ws = s.afterReads q (w :: ws) := by
  simp [afterReads, Nat.sub_sub, Nat.add_comm]

/-- No read's answer depends on the events to come or on the reads before it (spec R61). -/
theorem readValue_withQueue (s : State) (q : List HostOp) (d : Nat) (log : List BusReply) (off : Nat) :
    State.readValue { s with hostQueue := q, engineDelay := d, hostLog := log } off = s.readValue off := by
  show (State.busRead _ (s.target off)).1 = (s.busRead (s.target off)).1
  cases s.target off with
  | reg r => cases r <;> simp only [busRead, apply_ite Prod.fst] <;> rfl
  | obuf j =>
    simp only [busRead, apply_ite Prod.fst]
    rfl
  | key k j | ibuf j | reserved => rfl

theorem readValue_afterReads (q : List HostOp) (ws : List Word) : (s.afterReads q ws).readValue = s.readValue :=
  funext (s.readValue_withQueue _ _ _)

end State

/-- A read on an idle FRE with `rst` released, as the least run of reads. -/
theorem step_read_afterReads {s : State} {off : Nat} {q : List HostOp} (hb : s.status.busy = false)
    (hr : s.rst = false) (h4 : (s.params.base + off) % 4 = 0) (hw : off < 0x10000)
    (hq : s.hostQueue = .read (s.params.base + off) 4 :: q) :
    step s = .next (s.afterReads q [s.readValue off]) := by
  have hread := State.hostRead_readValue (s := { s with hostQueue := q, engineDelay := s.engineDelay - 1 }) hb off
  rw [s.readValue_withQueue q _ s.hostLog] at hread
  rw [step_read hb hr h4 hw hq, hread]
  rfl

/-- Reads at these offsets of a window at `base`. -/
def readsAt (base : Nat) (offs : List Nat) : List HostOp := offs.map fun off => .read (base + off) 4

/-- An idle FRE with `rst` released performs the reads ahead of it, one a step. -/
theorem run_reads {offs : List Nat} {q : List HostOp} (hoffs : ∀ off ∈ offs, off % 4 = 0 ∧ off < 0x10000) {s : State}
    (hb : s.status.busy = false) (hr : s.rst = false) (h4 : s.params.base % 4 = 0)
    (hq : s.hostQueue = readsAt s.params.base offs ++ q) :
    Host.Core.run Sys2Proof.core offs.length s = .next (s.afterReads q (offs.map s.readValue)) := by
  induction offs generalizing s with
  | nil => exact (run_zero s).trans (congrArg _ (State.afterReads_nil hq).symm)
  | cons off offs ih =>
    obtain ⟨⟨hoff4, hoffw⟩, hrest⟩ := List.forall_mem_cons.mp hoffs
    have hstep := step_read_afterReads (q := readsAt s.params.base offs ++ q) hb hr (by omega) hoffw hq
    have hrun := ih hrest (s := s.afterReads (readsAt s.params.base offs ++ q) [s.readValue off]) hb hr h4 rfl
    rw [State.readValue_afterReads, State.afterReads_cons] at hrun
    exact (run_succ hstep _).trans hrun

/-- The offsets of the first `n` OBUF words (spec R21). -/
def obufOffsets (n : Nat) : List Nat := (List.range n).map (0x8000 + 4 * ·)

theorem obufOffsets_length (n : Nat) : (obufOffsets n).length = n := by simp [obufOffsets]

theorem obufOffsets_admitted {n : Nat} (hn : n ≤ 8192) : ∀ off ∈ obufOffsets n, off % 4 = 0 ∧ off < 0x10000 := by
  intro off h
  obtain ⟨j, hj, rfl⟩ := List.mem_map.mp h
  have := List.mem_range.mp hj
  omega

/-- The reads of `readout` after OLEN (spec R80). -/
theorem map_readObufOp_range (base n : Nat) :
    (List.range n).map (readObufOp base) = readsAt base (obufOffsets n) := by
  simp [readsAt, obufOffsets, readObufOp, Nat.add_assoc]

theorem map_readValue_obufOffsets {s : State} (hb : s.status.busy = false) {n : Nat} (hn : n ≤ s.params.obufDepth)
    (hw : n ≤ 8192) : (obufOffsets n).map s.readValue = (List.range n).map s.obufWord := by
  rw [obufOffsets, List.map_map]
  refine List.map_congr_left fun j hj => ?_
  have := List.mem_range.mp hj
  exact State.readValue_obuf hb (by omega) (by omega)

/-- `readout` on an idle FRE reads OLEN and the OBUF words below it (spec R80). -/
theorem run_readOut {s : State} {q : List HostOp} (hp : s.params.legal) (hb : s.status.busy = false)
    (hr : s.rst = false) (ho : s.olen.toNat ≤ s.params.obufDepth) (hq : s.hostQueue = scriptReadOut ++ q) :
    Host.Core.run Sys2Proof.core (s.olen.toNat + 1) s =
      .next (s.afterReads q (s.olen.setWidth 32 :: (List.range s.olen.toNat).map s.obufWord)) := by
  have h4 := base_mod_four hp
  obtain ⟨-, -, ⟨-, hd⟩, -⟩ := hp
  have hstep : step s = .next (s.afterReads (readsAt s.params.base (obufOffsets s.olen.toNat) ++ q)
      [s.olen.setWidth 32]) := by
    rw [step_readOut hb hr hq, map_readObufOp_range]
    rfl
  have hrun := run_reads (obufOffsets_admitted (by omega)) (q := q)
    (s := s.afterReads (readsAt s.params.base (obufOffsets s.olen.toNat) ++ q) [s.olen.setWidth 32]) hb hr h4 rfl
  rw [obufOffsets_length, State.readValue_afterReads, map_readValue_obufOffsets hb ho (by omega),
    State.afterReads_cons] at hrun
  exact (run_succ hstep _).trans hrun

/-- `readnum` on an idle FRE reads NUM_OUT0 and NUM_OUT1 (spec R80). -/
theorem run_readNum {s : State} {q : List HostOp} (hp : s.params.legal) (hb : s.status.busy = false)
    (hr : s.rst = false) (hq : s.hostQueue = scriptReadNum s.params.base ++ q) :
    Host.Core.run Sys2Proof.core 2 s = .next (s.afterReads q [s.numOut0, s.numOut1]) := by
  have hrun :=
    run_reads (offs := [Reg.numOut0.offset, Reg.numOut1.offset]) (by decide) hb hr (base_mod_four hp) hq
  rw [List.map_cons, List.map_cons, State.readValue_reg hb, State.readValue_reg hb] at hrun
  exact hrun

/-- `readout` binds what was read after OLEN (spec R80). -/
theorem State.readOutValue_afterReads (s : State) (q : List HostOp) (w : Word) (ws : List Word) :
    readOutValue s.hostLog (s.afterReads q (w :: ws)).hostLog = ws.map (·.toNat) :=
  congrArg (List.drop 1) (valuesRead_data (w :: ws) s.hostLog)

/-- `readnum` binds the two words read, the second above the first (spec R80). -/
theorem State.readNumValue_afterReads (s : State) (q : List HostOp) (a b : Word) :
    readNumValue s.hostLog (s.afterReads q [a, b]).hostLog = some (b.toNat * 2 ^ 32 + a.toNat) := by
  unfold readNumValue
  rw [show valuesRead _ (s.afterReads q [a, b]).hostLog = _ from valuesRead_data [a, b] s.hostLog]
  rfl

/-- Settles O14: each read by what it reaches, the scripts by `run_readOut` and `run_readNum`. -/
theorem readsHaveNoSideEffect : Obligations.ReadsHaveNoSideEffect := by
  unfold Obligations.ReadsHaveNoSideEffect
  refine ⟨fun s off hb => ⟨_, State.hostRead_readValue hb off⟩, fun s off => ?_, fun s => ?_, fun s hp => ?_,
    fun s hb => ?_, fun s hb => ?_, fun s j => State.hostRead_key, fun s j => State.hostRead_ibuf,
    fun s j => State.hostRead_obuf, fun s q hp hb hr => ⟨fun ho hq => ?_, fun hq => ?_⟩⟩
  · obtain ⟨w, h | h⟩ := s.hostRead_cases off
    · exact ⟨w, s.draws, h⟩
    · exact ⟨w, s.draws + 1, h⟩
  · rw [← State.ctrlWord_eq, ← State.readReg_keyLen]
    exact State.hostRead_regs (regs := currentRegs) fun r hr => s.hostRead_reg (Reg.isResult_of_currentRegs r hr)
  · have hkey := s.hostRead_reg (r := .capKey) rfl
    rw [State.readReg_capKey hp] at hkey
    exact List.forall_mem_cons.mpr ⟨s.hostRead_reg (r := .capIbuf) rfl, List.forall_mem_cons.mpr
      ⟨s.hostRead_reg (r := .capObuf) rfl, List.forall_mem_singleton.mpr hkey⟩⟩
  · exact State.hostRead_regs (regs := resultRegs) fun r _ => State.hostRead_idle hb r
  · intro e he
    obtain ⟨r, hr, rfl⟩ := List.mem_map.mp (show e ∈ resultRegs.map fun r => (r.offset, r.resultWidth) from he)
    exact ⟨_, r.freeValue_lt _, State.hostRead_result hb (Reg.isResult_of_resultRegs r hr)⟩
  · refine ⟨_, (run_readOut hp hb hr ho hq).trans (congrArg _ (State.afterReads_of_length q (by simp))), ?_⟩
    rw [State.readOutValue_afterReads, List.map_map]
    rfl
  · exact ⟨_, run_readNum hp hb hr hq, s.readNumValue_afterReads q _ _⟩

/-! ## Admission (spec R59, R62, R79, R80, R190) -/

namespace State

variable {s : State}

theorem access_busError {a n : Nat} (p : Nat → State) (hr : s.rst = false) (h1 : s.params.base ≤ a)
    (h2 : a < s.params.base + 0x10000) (h : ¬ (n = 4 ∧ a % 4 = 0)) : s.access a n p = .fault .busError := by
  have hadmitted : admitted a n = false := by simpa [admitted] using h
  simp [access, hr, inWindow, h1, h2, hadmitted]

theorem access_outsideWindow {a : Nat} (n : Nat) (p : Nat → State) (hr : s.rst = false)
    (h : ¬ (s.params.base ≤ a ∧ a < s.params.base + 0x10000)) : s.access a n p = .fault .outsideWindow := by
  have hwindow : s.inWindow a = false := by simpa [inWindow] using h
  simp [access, hr, hwindow]

theorem access_dropped (a n : Nat) (p : Nat → State) (hr : s.rst = true) :
    s.access a n p = .next (s.reply .dropped) := if_pos hr

theorem hostEvent_wait (hr : s.rst = false) : s.hostEvent .wait = .next s.hostWait :=
  if_neg (by simp [hr])

theorem hostEvent_readOut (hr : s.rst = false) : s.hostEvent .readOut = .next s.hostReadOut :=
  if_neg (by simp [hr])

theorem hostWait_eq (s : State) : s.hostWait = { s with
    hostQueue := if s.status.busy then .wait :: s.hostQueue else s.hostQueue,
    hostLog := .data s.status.word :: s.hostLog } := by
  unfold hostWait
  dsimp only
  split <;> rfl

/-- While busy `readout` asks for as many words as the free value of OLEN says (spec R50; log 7). -/
theorem hostReadOut_busy (hb : s.status.busy = true) : s.hostReadOut =
    { s.draw.reply (.data (((Config.freeRead s.draws).setWidth 16).setWidth 32)) with
      hostQueue := (List.range ((Config.freeRead s.draws).setWidth 16).toNat).map (readObufOp s.params.base) ++
        s.hostQueue } := by
  have hread : s.busRead (.reg .olen) = (((Config.freeRead s.draws).setWidth 16).setWidth 32, s.draw) := by
    simp [busRead, hb, Reg.isResult, Reg.freeValue]
  have hn : (((Config.freeRead s.draws).setWidth 16).setWidth 32).toNat =
      ((Config.freeRead s.draws).setWidth 16).toNat :=
    BitVec.toNat_setWidth_of_le (by decide)
  simp only [hostReadOut, hread, hn]
  rfl

end State

/-- Settles O15: an access by the branch of `State.access` it falls in, `wait` and `readout` by what a turn of each does. -/
theorem refusedAccessesChangeNothing : Obligations.RefusedAccessesChangeNothing := by
  unfold Obligations.RefusedAccessesChangeNothing
  intro s addr bytes v
  refine ⟨fun hr h1 h2 h4 => ⟨State.access_ok hr h1 h2 h4, State.access_ok (p := (s.hostWrite · v)) hr h1 h2 h4⟩,
    fun hr => ?_, fun hr => ?_,
    fun hr h1 h2 h => ⟨State.access_busError _ hr h1 h2 h, State.access_busError (s.hostWrite · v) hr h1 h2 h⟩,
    fun hr h => ⟨State.access_outsideWindow _ _ hr h, State.access_outsideWindow _ (s.hostWrite · v) hr h⟩,
    fun hr => ⟨State.access_dropped _ _ _ hr, State.access_dropped _ _ (s.hostWrite · v) hr, if_pos hr, if_pos hr⟩⟩
  · rw [State.hostEvent_wait hr, State.hostWait_eq]
  · rw [State.hostEvent_readOut hr]
    cases hb : s.status.busy with
    | false => exact ⟨s.olen, s.draws, fun _ => ⟨rfl, rfl⟩, congrArg _ (State.hostReadOut_idle hb)⟩
    | true => exact ⟨_, s.draws + 1, nofun, congrArg _ (State.hostReadOut_busy hb)⟩

/-! ## The life of a result (spec R65) -/

namespace State

variable {s : State}

/-- All that R65 speaks of, with the draw of the OBUF words that nothing has written (U3; log 6). -/
def results (s : State) : (BitVec 16 × Memory × Nat) × (Word × Word × BitVec 4) × BitVec 8 :=
  ((s.olen, s.obuf, s.obufEpoch), (s.numOut0, s.numOut1, s.numWidth), s.errCode)

/-- Equal results are equal registers and equal OBUF words, written or not. -/
theorem eq_of_results {t : State} (h : t.results = s.results) :
    t.olen = s.olen ∧ (∀ j, t.obufWord j = s.obufWord j) ∧ t.numOut0 = s.numOut0 ∧ t.numOut1 = s.numOut1 ∧
      t.numWidth = s.numWidth ∧ t.errCode = s.errCode := by
  simp only [results, Prod.mk.injEq] at h
  obtain ⟨⟨holen, hobuf, hepoch⟩, ⟨h0, h1, hw⟩, he⟩ := h
  have hfree : t.unwritten .obuf = s.unwritten .obuf := by
    funext a
    simp only [unwritten, hepoch]
  exact ⟨holen, fun j => by rw [obufWord, obufWord, hobuf, hfree], h0, h1, hw, he⟩

/-- Only the accept clears a result among the idle register writes (spec R45, R65). -/
theorem results_writeRw {r : Reg} (h : r ≠ .cmd) (v : Word) : (s.writeRw r v).results = s.results := by
  cases r with
  | cmd => exact absurd rfl h
  | keyLen =>
    show (s.writeKeyLen v).results = s.results
    unfold writeKeyLen
    split <;> rfl
  | _ => rfl

theorem results_hostRead (off : Nat) : (s.hostRead off).results = s.results := by
  obtain ⟨w, h | h⟩ := s.hostRead_cases off <;> rw [h] <;> rfl

theorem results_hostWrite {off : Nat} {v : Word} (hcmd : off ≠ 0x010) (hctrl : off = 0x004 → v.getLsbD 0 = false) :
    (s.hostWrite off v).results = s.results := by
  show (s.busWrite (s.target off) v).results = s.results
  rcases s.busWrite_cases (s.target off) v with ⟨ht, e⟩ | ⟨-, e⟩ | ⟨r, -, -, -, e⟩ | ⟨r, ht, -, -, e⟩ |
    ⟨k, j, -, -, e⟩ | ⟨k, j, -, -, e⟩ | ⟨j, -, -, e⟩ | ⟨j, -, -, e⟩ | e <;> rw [e]
  case inl =>
    rw [writeCtrl_irqEn (hctrl (target_eq_reg ht))]
    rfl
  case inr.inr.inr.inl =>
    refine results_writeRw (fun hr => hcmd ?_) v
    rw [target_eq_reg ht, hr]
    rfl
  all_goals rfl

theorem results_hostWait : s.hostWait.results = s.results := by rw [hostWait_eq]; rfl

theorem results_hostReadOut : s.hostReadOut.results = s.results := by
  rw [hostReadOut_eq]
  exact results_hostRead Reg.olen.offset

end State

/-- Settles O16: by the event, a write by `State.results_hostWrite`. -/
theorem resultsStayUntilAcceptOrReset : Obligations.ResultsStayUntilAcceptOrReset := by
  unfold Obligations.ResultsStayUntilAcceptOrReset
  intro op s t _ ht hwrite hrst
  refine State.eq_of_results ?_
  rcases State.hostEvent_inv ht with rfl | ⟨a, n, -, -, rfl⟩ | ⟨a, n, v, rfl, -, hbase, rfl⟩ | ⟨-, rfl⟩ | ⟨-, -, rfl⟩ |
    ⟨rfl, -⟩ | ⟨-, rfl⟩
  · rfl
  · exact State.results_hostRead _
  · obtain ⟨hcmd, hctrl⟩ := hwrite a n v rfl
    exact State.results_hostWrite (fun h => hcmd (by omega)) (fun h => hctrl (by omega))
  · exact State.results_hostWait
  · exact State.results_hostReadOut
  · exact absurd rfl hrst
  · rfl

end Sys2Proof.Machine

/-! # The encoding (spec R71, R74 to R77, R81) -/

namespace Sys2Proof

open Machine

/-- No bit of a word that decodes is dropped (spec R74, R75). -/
theorem encode_of_decode {w : Word} {i : Instr} (h : decode w = .ok i) : encode i = w := by
  rw [encode, raw_of_decodeRaw h, pack_fieldsOf]

/-- Settles O1: by `decode_encode` and `encode_of_decode`. -/
theorem decodeAndEncodeAreInverse : Obligations.DecodeAndEncodeAreInverse :=
  ⟨decode_encode, fun _ _ => encode_of_decode⟩

/-- Settles O3: the decoder evaluated at each word. -/
theorem encodingExamplesDecodeAsWritten : Obligations.EncodingExamplesDecodeAsWritten := by
  unfold Obligations.EncodingExamplesDecodeAsWritten
  decide

/-! ## The rows (spec R74, R75, R77) -/

/-- The row of a command, (match, mask): the mask leaves out the field F, M or W that its OP lists. -/
def Instr.row : Instr → Word × Word
  | .extract _ => (0x08, 0xFFFFFDFF)
  | .add _ => (0x09, 0xFFFFFDFF)
  | .xor _ => (0x0A, 0xFFFFFDFF)
  | .round _ => (0x11, 0xFFFFFDFF)
  | .digest _ => (0x10, 0xFFFFFEFF)
  | .fpeEnc _ => (0x28, 0xFFFFFEFF)
  | .fpeDec _ => (0x29, 0xFFFFFEFF)
  | .fpeEncStr _ => (0x2A, 0xFFFFFEFF)
  | .fpeDecStr _ => (0x2B, 0xFFFFFEFF)
  | .numEnc _ => (0x30, 0xFFFFF3FF)
  | .numDec _ => (0x31, 0xFFFFF3FF)
  | i => (encode i, 0xFFFFFFFF)

/-- The row of a command stands in the table and selects the command's word. -/
theorem Instr.row_selects (i : Instr) : i.row ∈ commandRows ∧ encode i &&& i.row.2 = i.row.1 := by
  cases i with
  | nop | configureBal | configureMk | configureFpe | pad | unpad | b256Enc | b256Dec | balEnc | balDec | mkEnc | mkDec =>
    decide
  | extract m | add m | xor m | round m => cases m <;> decide
  | digest f | fpeEnc f | fpeDec f | fpeEncStr f | fpeDecStr f => cases f <;> decide
  | numEnc w | numDec w => cases w <;> decide

/-- Bits 11..8 of a word, where W, M and F stand (spec R71). -/
def optionBits (c : BitVec 4) : Word := (0 : BitVec 20) ++ c ++ (0 : BitVec 8)

theorem and_optionMask (w : Word) : w &&& 0xF00 = optionBits (w.extractLsb' 8 4) := by
  have hmask : ∀ n < 32, (0xF00 : Word).getLsbD n = (decide (8 ≤ n) && decide (n < 12)) := by decide
  apply BitVec.eq_of_getLsbD_eq
  intro n hn
  rw [BitVec.getLsbD_and, hmask n hn]
  simp only [optionBits, BitVec.getLsbD_append, BitVec.getLsbD_extractLsb']
  rcases Nat.lt_or_ge n 8 with h | h
  · simp [h]
  · simp [h, show ¬ n < 8 by omega, show n - 8 < 4 ↔ n < 12 by omega, show 8 + (n - 8) = n by omega]
    exact Bool.and_comm _ _

/-- A row's mask leaves out no bit but those of W, M and F (spec R75). -/
theorem mask_or_optionMask : (commandRows.all fun r => r.2 ||| 0xF00 == 0xFFFFFFFF) = true := by decide

/-- Of the words that differ from a row's match in W, M and F alone, those the row selects decode. -/
theorem decode_match_or_optionBits : ∀ c : BitVec 4, (commandRows.all fun r =>
    (r.1 ||| optionBits c) &&& r.2 != r.1 || (decode (r.1 ||| optionBits c)).isOk) = true := by decide

/-- A word that a row selects decodes. -/
theorem decode_isOk_of_selects {r : Word × Word} (hr : r ∈ commandRows) {w : Word} (h : w &&& r.2 = r.1) :
    (decode w).isOk = true := by
  have hmask : r.2 ||| 0xF00 = 0xFFFFFFFF := eq_of_beq (List.all_eq_true.mp mask_or_optionMask r hr)
  have hw : r.1 ||| optionBits (w.extractLsb' 8 4) = w := by
    rw [← h, ← and_optionMask, ← BitVec.and_or_distrib_left, hmask]
    exact BitVec.and_allOnes
  have hok := List.all_eq_true.mp (decode_match_or_optionBits (w.extractLsb' 8 4)) r hr
  rwa [hw, h, bne_self_eq_false, Bool.false_or] at hok

theorem decode_ok_iff_selects (w : Word) : (∃ i, decode w = .ok i) ↔ ∃ r ∈ commandRows, w &&& r.2 = r.1 := by
  constructor
  · rintro ⟨i, h⟩
    obtain ⟨hmem, hsel⟩ := i.row_selects
    exact ⟨i.row, hmem, encode_of_decode h ▸ hsel⟩
  · rintro ⟨r, hr, h⟩
    have hok := decode_isOk_of_selects hr h
    cases hd : decode w with
    | ok i => exact ⟨i, rfl⟩
    | error e => rw [hd] at hok; cases hok

/-- Where one word is selected twice, the matches agree on the bits of both masks. -/
theorem matches_agree {w m₁ k₁ m₂ k₂ : Word} (h₁ : w &&& k₁ = m₁) (h₂ : w &&& k₂ = m₂) : m₁ &&& k₂ = m₂ &&& k₁ := by
  rw [← h₁, ← h₂, BitVec.and_assoc, BitVec.and_assoc, BitVec.and_comm k₁]

theorem commandRows_disagree : commandRows.Pairwise fun a b => a.1 &&& b.2 ≠ b.1 &&& a.2 := by decide

/-! ## The illegal words (spec R76) -/

theorem RawCmd.legal_eq_false_iff (r : RawCmd) : r.legal = false ↔
    opcodeMap.lookup r.op.toNat = none ∨ r.rsv ≠ 0 ∨ r.unlistedZero = false ∨ (r.op = 1 ∧ r.v = 3) := by
  simp only [legal, opAssigned, rsvZero, variantOk, Bool.and_eq_false_iff, Option.isSome_eq_false_iff,
    Option.isNone_iff_eq_none, beq_eq_false_iff_ne, Bool.not_eq_false', Bool.and_eq_true, beq_iff_eq, or_assoc]

/-- The fields that an opcode does not list, where all of them are zero. -/
theorem RawCmd.eq_zero_of_unlisted {r : RawCmd} {l : Listed} (h : opcodeMap.lookup r.op.toNat = some l)
    (hu : r.unlistedZero = true) : (l.f = false → r.f = 0) ∧ (l.m = false → r.m = 0) ∧ (l.w = false → r.w = 0) ∧
      (l.v = false → r.v = 0) := by
  have himp : ∀ {b : Bool} {p : Prop}, b = true ∨ p → b = false → p := by simp +contextual
  rw [unlistedZero, h] at hu
  simp only [Bool.and_eq_true, Bool.or_eq_true, beq_iff_eq] at hu
  obtain ⟨⟨⟨hf, hm⟩, hw⟩, hv⟩ := hu
  exact ⟨himp hf, himp hm, himp hw, himp hv⟩

section

variable {r : RawCmd} (hu : r.unlistedZero = true)

include hu

theorem decodeNone_of_unlistedZero (h : opcodeMap.lookup r.op.toNat = some {}) (i : Instr) :
    decodeNone r i = .ok i := by
  obtain ⟨hf, hm, hw, hv⟩ := RawCmd.eq_zero_of_unlisted h hu
  exact if_pos ⟨hf rfl, hm rfl, hw rfl, hv rfl⟩

theorem decodeF_of_unlistedZero (h : opcodeMap.lookup r.op.toNat = some { f := true }) (i : Form → Instr) :
    decodeF r i = .ok (i (formOf r.f)) := by
  obtain ⟨-, hm, hw, hv⟩ := RawCmd.eq_zero_of_unlisted h hu
  exact if_pos ⟨hm rfl, hw rfl, hv rfl⟩

theorem decodeM_of_unlistedZero (h : opcodeMap.lookup r.op.toNat = some { m := true }) (i : Mode → Instr) :
    decodeM r i = .ok (i (modeOf r.m)) := by
  obtain ⟨hf, -, hw, hv⟩ := RawCmd.eq_zero_of_unlisted h hu
  exact if_pos ⟨hf rfl, hw rfl, hv rfl⟩

theorem decodeW_of_unlistedZero (h : opcodeMap.lookup r.op.toNat = some { w := true }) (i : Width → Instr) :
    decodeW r i = .ok (i (widthOf r.w)) := by
  obtain ⟨hf, hm, -, hv⟩ := RawCmd.eq_zero_of_unlisted h hu
  exact if_pos ⟨hf rfl, hm rfl, hv rfl⟩

theorem decodeConfigure_of_unlistedZero (h : opcodeMap.lookup r.op.toNat = some { v := true }) (hv : r.v ≠ 3) :
    ∃ i, decodeConfigure r = .ok i := by
  obtain ⟨hf, hm, hw, -⟩ := RawCmd.eq_zero_of_unlisted h hu
  have hcases : ∀ v : BitVec 2, v ≠ 3 → v = 0 ∨ v = 1 ∨ v = 2 := by decide
  rcases hcases r.v hv with hv | hv | hv <;> simp [decodeConfigure, hf, hm, hw, hv]

end

/-- Fields that are legal are those of a command (spec R76, R77). -/
theorem decodeRaw_of_legal {r : RawCmd} (h : r.legal = true) : ∃ i, decodeRaw r = .ok i := by
  have hlegal := (not_congr r.legal_eq_false_iff).mp (by simp [h])
  push Not at hlegal
  obtain ⟨hop, hrsv, hu, hv⟩ := hlegal
  replace hu := eq_true_of_ne_false hu
  unfold decodeRaw
  rw [if_neg (not_not.mpr hrsv)]
  split <;> rename_i hn
  case h_2 => exact decodeConfigure_of_unlistedZero hu (by rw [hn]; rfl) (hv (BitVec.eq_of_toNat_eq hn))
  case h_3 | h_4 | h_5 | h_9 => exact ⟨_, decodeM_of_unlistedZero hu (by rw [hn]; rfl) _⟩
  case h_8 | h_16 | h_17 | h_18 | h_19 => exact ⟨_, decodeF_of_unlistedZero hu (by rw [hn]; rfl) _⟩
  case h_20 | h_21 => exact ⟨_, decodeW_of_unlistedZero hu (by rw [hn]; rfl) _⟩
  case h_22 => exact absurd (List.lookup_eq_none_iff.mpr (by clear hop; simp_all [opcodeMap])) hop
  all_goals exact ⟨_, decodeNone_of_unlistedZero hu (by rw [hn]; rfl) _⟩

theorem decode_error_iff_illegal (w : Word) : (∃ e, decode w = .error e) ↔ (fieldsOf w).legal = false := by
  refine ⟨fun ⟨e, he⟩ => ?_, decode_of_illegal⟩
  by_contra hlegal
  obtain ⟨i, hi⟩ := decodeRaw_of_legal (Bool.not_eq_false _ ▸ hlegal)
  cases he.symm.trans hi

theorem fieldsOf_toNat (w : Word) : (fieldsOf w).op.toNat = w.toNat % 256 ∧
    (fieldsOf w).v.toNat = w.toNat / 2 ^ 12 % 4 ∧ (fieldsOf w).rsv.toNat = w.toNat / 2 ^ 14 := by
  have hw : w.toNat / 2 ^ 14 < 2 ^ 18 := by have := w.isLt; omega
  simp only [fieldsOf, BitVec.extractLsb'_toNat, Nat.shiftRight_eq_div_pow]
  exact ⟨by rw [Nat.pow_zero, Nat.div_one], trivial, Nat.mod_eq_of_lt hw⟩

/-- Settles O2: the rows by `decode_ok_iff_selects`, the illegal words by `decodeRaw_of_legal`. -/
theorem everyWordIsOneRowOrIllegal : Obligations.EveryWordIsOneRowOrIllegal := by
  unfold Obligations.EveryWordIsOneRowOrIllegal
  refine ⟨decode_ok_iff_selects, commandRows_disagree.imp fun hne w ⟨ha, hb⟩ => hne (matches_agree ha hb), fun w => ?_⟩
  obtain ⟨hop, hv, hrsv⟩ := fieldsOf_toNat w
  rw [decode_error_iff_illegal, RawCmd.legal_eq_false_iff, ne_eq, ← BitVec.toNat_inj (x := (fieldsOf w).rsv),
    ← BitVec.toNat_inj (x := (fieldsOf w).op), ← BitVec.toNat_inj (x := (fieldsOf w).v), hop, hv, hrsv]
  rfl

end Sys2Proof

/-! # The load scripts (spec R56, R64, R80)

Each script is a run of idle writes. `State.withRecord` keeps what the run changes outside the FRE (the events to come,
the delay, the record) apart from the operands it places. -/

namespace Sys2Proof.Machine

/-- The upper ends of the ranges of R9. -/
theorem Params.legal_le {p : Params} (h : p.legal) : p.ibufDepth ≤ 4096 ∧ p.keyDepth ≤ 1024 ∧ p.nkeysMax ≤ 255 := by
  obtain ⟨-, ⟨-, hibuf⟩, -, ⟨-, hkey⟩, ⟨-, hslots⟩, -⟩ := h
  exact ⟨hibuf, hkey, hslots⟩

namespace State

variable {s : State}

/-- `s` with other events to come, another count of them before the ENGINE's turn, and another record. -/
def withRecord (s : State) (q : List HostOp) (d : Nat) (log : List BusReply) : State :=
  { s with hostQueue := q, engineDelay := d, hostLog := log }

/-- `s` with `v` as the input vector (spec R41, R56). -/
def withInput (s : State) (v : Units) : State :=
  { s with ilen := BitVec.ofNat 16 v.length, ibuf := s.ibuf.writeUnits 0 v }

/-- `s` with `v` as the key string of slot `k` (spec R40, R56). -/
def withKeyString (s : State) (k : Nat) (v : Units) : State :=
  { s with keyLen := s.keyLen.set k (BitVec.ofNat 16 v.length), key := s.key.writeUnits (keyAddr k 0) v }

/-- `s` with the low 128 bits of `x` as the integer input (spec R35, R57). -/
def withNumIn (s : State) (x : Nat) : State :=
  { s with
    numIn0 := BitVec.ofNat 32 (x % 2 ^ 32), numIn1 := BitVec.ofNat 32 (x / 2 ^ 32 % 2 ^ 32),
    numIn2 := BitVec.ofNat 32 (x / 2 ^ 64 % 2 ^ 32), numIn3 := BitVec.ofNat 32 (x / 2 ^ 96 % 2 ^ 32) }

theorem withRecord_eq {q : List HostOp} (hq : s.hostQueue = q) : s.withRecord q s.engineDelay s.hostLog = s := by
  subst hq
  rfl

/-- No register write but the accept rests on the events or changes them (spec R61). -/
theorem writeRw_withRecord {r : Reg} (hr : r ≠ .cmd) (v : Word) (q : List HostOp) (d : Nat) (log : List BusReply) :
    (s.withRecord q d log).writeRw r v = (s.writeRw r v).withRecord q d log := by
  cases r with
  | cmd => exact absurd rfl hr
  | keyLen =>
    show (s.withRecord q d log).writeKeyLen v = (s.writeKeyLen v).withRecord q d log
    rcases Nat.lt_or_ge s.keySel.toNat s.params.nkeysMax with hk | hk
    · rw [writeKeyLen_slot hk, writeKeyLen_slot (s := s.withRecord q d log) hk]
      rfl
    · rw [writeKeyLen_noSlot hk, writeKeyLen_noSlot (s := s.withRecord q d log) hk]
  | _ => rfl

theorem writeRw_ilen_ofNat (n : Nat) : s.writeRw .ilen (BitVec.ofNat 32 n) = { s with ilen := BitVec.ofNat 16 n } := by
  rw [writeRw, BitVec.setWidth_ofNat_of_le (by decide)]

theorem writeRw_keySel_ofNat (k : Nat) :
    s.writeRw .keySel (BitVec.ofNat 32 k) = { s with keySel := BitVec.ofNat 8 k } := by
  rw [writeRw, BitVec.setWidth_ofNat_of_le (by decide)]

theorem writeRw_keyLen_ofNat (hk : s.keySel.toNat < s.params.nkeysMax) (n : Nat) :
    s.writeRw .keyLen (BitVec.ofNat 32 n) =
      State.invalidate { s with keyLen := s.keyLen.set s.keySel.toNat (BitVec.ofNat 16 n) } := by
  rw [writeRw, writeKeyLen_slot hk, BitVec.setWidth_ofNat_of_le (by decide)]

end State

/-! ## One write of a script -/

theorem Reg.offset_admitted (r : Reg) : r.offset % 4 = 0 ∧ r.offset < 0x10000 := by cases r <;> decide

section

variable {s : State} (hp : s.params.legal) (hb : s.status.busy = false) (hr : s.rst = false)

include hp hb hr

/-- A write at the head of the events, on an idle FRE. -/
theorem step_write_withRecord {off : Nat} (h4 : off % 4 = 0) (hw : off < 0x10000) (v : Word) (q : List HostOp) (d : Nat)
    (log : List BusReply) : step (s.withRecord (.write (s.params.base + off) 4 v :: q) d log) =
      .next ((s.withRecord q (d - 1) log).hostWrite off v) := by
  have hbase := base_mod_four hp
  exact step_write (s := s.withRecord _ d log) hb hr (show (s.params.base + off) % 4 = 0 by omega) hw rfl

/-- `write REG, v` on an idle FRE (spec R38, R79). -/
theorem step_scriptWrite {r : Reg} (hrw : r.isRw = true) (hcmd : r ≠ .cmd) (x : Nat) (q : List HostOp) (d : Nat)
    (log : List BusReply) : step (s.withRecord (scriptWrite s.params.base r x :: q) d log) =
      .next ((s.writeRw r (BitVec.ofNat 32 x)).withRecord q (d - 1) (.ack :: log)) := by
  obtain ⟨h4, hw⟩ := r.offset_admitted
  rw [scriptWrite, step_write_withRecord hp hb hr h4 hw, State.hostWrite_idle (by exact hb) hrw,
    State.writeRw_withRecord hcmd]
  rfl

/-- `write IBUF[j], v` on an idle FRE (spec R41, R79). -/
theorem step_scriptWriteIbuf {j : Nat} (hj : j < s.params.ibufDepth) (x : Nat) (q : List HostOp) (d : Nat)
    (log : List BusReply) : step (s.withRecord (scriptWriteIbuf s.params.base j x :: q) d log) =
      .next (State.withRecord { s with ibuf := s.ibuf.writeWord (4 * j) (BitVec.ofNat 32 x) } q (d - 1)
        (.ack :: log)) := by
  obtain ⟨hmax, -⟩ := Params.legal_le hp
  rw [scriptWriteIbuf, Nat.add_assoc, step_write_withRecord hp hb hr (by omega) (by omega),
    State.hostWrite_ibuf (by exact hb) (by exact hj) (by omega)]
  rfl

/-- `write KEY[j], v` on an idle FRE whose KEYSEL names a slot (spec R40, R47, R79). -/
theorem step_scriptWriteKey {j : Nat} (hj : j < s.params.keyDepth) (hk : s.keySel.toNat < s.params.nkeysMax) (x : Nat)
    (q : List HostOp) (d : Nat) (log : List BusReply) :
    step (s.withRecord (scriptWriteKey s.params.base j x :: q) d log) =
      .next (State.withRecord (State.invalidate
        { s with key := s.key.writeWord (keyAddr s.keySel.toNat j) (BitVec.ofNat 32 x) }) q (d - 1) (.ack :: log)) := by
  obtain ⟨-, hmax, -⟩ := Params.legal_le hp
  rw [scriptWriteKey, Nat.add_assoc, step_write_withRecord hp hb hr (by omega) (by omega),
    State.hostWrite_key (by exact hb) (by exact hj) (by omega) (by exact hk)]
  rfl

end

/-! ## A script of writes -/

/-- The writes of a vector's elements, one a step, where each writes one word of the memory that `put` places. -/
theorem run_scriptElements {w : Nat → Nat → HostOp} {put : Memory → State} {a depth : Nat}
    (hstep : ∀ (m : Memory) (j x : Nat) (q : List HostOp) (d : Nat) (log : List BusReply), j < depth →
      step ((put m).withRecord (w j x :: q) d log) =
        .next ((put (m.writeWord (a + 4 * j) (BitVec.ofNat 32 x))).withRecord q (d - 1) (.ack :: log)))
    (m : Memory) (v : Units) {j : Nat} (hv : j + v.length ≤ depth) (q : List HostOp) (d : Nat) (log : List BusReply) :
    Host.Core.run Sys2Proof.core v.length ((put m).withRecord (scriptElements w j v ++ q) d log) =
      .next ((put (m.writeUnits (a + 4 * j) v)).withRecord q (d - v.length)
        (List.replicate v.length .ack ++ log)) := by
  induction v generalizing m j d log with
  | nil => rfl
  | cons x v ih =>
    simp only [List.length_cons] at hv
    have hrun := ih (m.writeWord (a + 4 * j) (BitVec.ofNat 32 x)) (j := j + 1) (by omega) (d - 1) (.ack :: log)
    rw [Nat.sub_sub, Nat.add_comm 1, List.append_cons, ← List.replicate_succ'] at hrun
    exact (run_succ (hstep m j x _ d log (by omega)) _).trans hrun

section

variable {s : State} (hp : s.params.legal) (hb : s.status.busy = false) (hr : s.rst = false)

include hp hb hr

/-- `loadin v` (spec R80). -/
theorem run_loadIn {v : Units} (hv : v.length ≤ s.params.ibufDepth) (q : List HostOp) (d : Nat) (log : List BusReply) :
    Host.Core.run Sys2Proof.core (v.length + 1) (s.withRecord (scriptLoadIn s.params.base v ++ q) d log) =
      .next ((s.withInput v).withRecord q (d - 1 - v.length) (List.replicate v.length .ack ++ .ack :: log)) := by
  have hilen := step_scriptWrite (r := .ilen) hp hb hr rfl (by decide) v.length
    (scriptElements (scriptWriteIbuf s.params.base) 0 v ++ q) d log
  have helements := run_scriptElements (w := scriptWriteIbuf s.params.base) (depth := s.params.ibufDepth)
    (put := fun m => { s with ilen := BitVec.ofNat 16 v.length, ibuf := m }) (a := 0)
    (fun m j x q d log hj => by
      rw [Nat.zero_add]
      exact step_scriptWriteIbuf (s := { s with ilen := BitVec.ofNat 16 v.length, ibuf := m }) hp hb hr hj x q d log)
    s.ibuf v (j := 0) (by omega) q (d - 1) (.ack :: log)
  rw [State.writeRw_ilen_ofNat] at hilen
  exact (run_succ hilen _).trans helements

/-- `loadkey`'s writes after KEYSEL (spec R80). -/
theorem run_keyString (hk : s.keySel.toNat < s.params.nkeysMax) {v : Units} (hv : v.length ≤ s.params.keyDepth)
    (q : List HostOp) (d : Nat) (log : List BusReply) :
    Host.Core.run Sys2Proof.core (v.length + 1) (s.withRecord (scriptWrite s.params.base .keyLen v.length ::
        scriptElements (scriptWriteKey s.params.base) 0 v ++ q) d log) =
      .next ((s.withKeyString s.keySel.toNat v).invalidate.withRecord q (d - 1 - v.length)
        (List.replicate v.length .ack ++ .ack :: log)) := by
  have hkeyLen := step_scriptWrite (r := .keyLen) hp hb hr rfl (by decide) v.length
    (scriptElements (scriptWriteKey s.params.base) 0 v ++ q) d log
  have helements := run_scriptElements (w := scriptWriteKey s.params.base) (depth := s.params.keyDepth)
    (put := fun m => State.invalidate { s with
      keyLen := s.keyLen.set s.keySel.toNat (BitVec.ofNat 16 v.length), key := m }) (a := keyAddr s.keySel.toNat 0)
    (fun m j x q d log hj => step_scriptWriteKey (s := State.invalidate { s with
      keyLen := s.keyLen.set s.keySel.toNat (BitVec.ofNat 16 v.length), key := m }) hp hb hr hj hk x q d log)
    s.key v (j := 0) (by omega) q (d - 1) (.ack :: log)
  rw [State.writeRw_keyLen_ofNat hk] at hkeyLen
  exact (run_succ hkeyLen _).trans helements

/-- `loadkey k, v` (spec R80). -/
theorem run_loadKey {k : Nat} (hk : k < s.params.nkeysMax) {v : Units} (hv : v.length ≤ s.params.keyDepth)
    (q : List HostOp) (d : Nat) (log : List BusReply) :
    Host.Core.run Sys2Proof.core (v.length + 2) (s.withRecord (scriptLoadKey s.params.base k v ++ q) d log) =
      .next ((State.withKeyString { s with keySel := BitVec.ofNat 8 k } k v).invalidate.withRecord q
        (d - 1 - 1 - v.length) (List.replicate v.length .ack ++ .ack :: .ack :: log)) := by
  have hsel : (BitVec.ofNat 8 k).toNat = k := by
    obtain ⟨-, -, hmax⟩ := Params.legal_le hp
    exact (BitVec.toNat_ofNat k 8).trans (Nat.mod_eq_of_lt (by omega))
  have hkeySel := step_scriptWrite (r := .keySel) hp hb hr rfl (by decide) k
    (scriptWrite s.params.base .keyLen v.length :: scriptElements (scriptWriteKey s.params.base) 0 v ++ q) d log
  have hstring := run_keyString (s := { s with keySel := BitVec.ofNat 8 k }) hp hb hr (hsel.trans_lt hk) hv q (d - 1)
    (.ack :: log)
  rw [State.writeRw_keySel_ofNat] at hkeySel
  rw [hsel] at hstring
  exact (run_succ hkeySel _).trans hstring

end

/-- The state after idle writes to registers, in order. -/
def State.writeRegs (s : State) (ws : List (Reg × Nat)) : State :=
  ws.foldl (fun t w => t.writeRw w.1 (BitVec.ofNat 32 w.2)) s

theorem State.writeRw_operand_frame {r : Reg} (h : r ∈ operandRegs) (s : State) (v : Word) :
    (s.writeRw r v).params = s.params ∧ (s.writeRw r v).rst = s.rst := by
  revert h
  cases r <;> simp [operandRegs, State.writeRw]

/-- Writes to registers that are no part of a configuration, one a step (spec R64, R196). -/
theorem run_scriptWrites {ws : List (Reg × Nat)} (hws : ∀ w ∈ ws, w.1 ∈ operandRegs) {s : State} (hp : s.params.legal)
    (hb : s.status.busy = false) (hr : s.rst = false) (q : List HostOp) (d : Nat) (log : List BusReply) :
    Host.Core.run Sys2Proof.core ws.length
        (s.withRecord (ws.map (fun w => scriptWrite s.params.base w.1 w.2) ++ q) d log) =
      .next ((s.writeRegs ws).withRecord q (d - ws.length) (List.replicate ws.length .ack ++ log)) := by
  induction ws generalizing s d log with
  | nil => rfl
  | cons w ws ih =>
    obtain ⟨hw, hrest⟩ := List.forall_mem_cons.mp hws
    obtain ⟨hparams, hrst⟩ := s.writeRw_operand_frame hw (BitVec.ofNat 32 w.2)
    have hstatus := State.writeRw_status_operand (s := s) (v := BitVec.ofNat 32 w.2) hw
    have hcmd : w.1 ≠ .cmd := fun h => absurd (h ▸ hw) (by decide)
    have hstep := step_scriptWrite hp hb hr (Reg.isRw_of_operandRegs _ hw) hcmd w.2
      (ws.map (fun w => scriptWrite s.params.base w.1 w.2) ++ q) d log
    have hrun := ih hrest (hparams ▸ hp) (hstatus ▸ hb) (hrst ▸ hr) (d - 1) (.ack :: log)
    rw [hparams, Nat.sub_sub, Nat.add_comm 1, List.append_cons, ← List.replicate_succ'] at hrun
    exact (run_succ hstep _).trans hrun

/-- The registers of `loadnum x` with what it writes to them (spec R80). -/
def numInWrites (x : Nat) : List (Reg × Nat) :=
  [(.numIn0, x % 2 ^ 32), (.numIn1, x / 2 ^ 32 % 2 ^ 32), (.numIn2, x / 2 ^ 64 % 2 ^ 32),
   (.numIn3, x / 2 ^ 96 % 2 ^ 32)]

theorem numInWrites_operand (x : Nat) : ∀ w ∈ numInWrites x, w.1 ∈ operandRegs := by simp [numInWrites, operandRegs]

theorem State.writeRegs_numInWrites (s : State) (x : Nat) : s.writeRegs (numInWrites x) = s.withNumIn x := by
  simp only [State.writeRegs, numInWrites, List.foldl_cons, List.foldl_nil, State.writeRw, State.withNumIn]

/-- `loadnum x` (spec R80). -/
theorem run_loadNum {s : State} (hp : s.params.legal) (hb : s.status.busy = false) (hr : s.rst = false) (x : Nat)
    (q : List HostOp) (d : Nat) (log : List BusReply) :
    Host.Core.run Sys2Proof.core 4 (s.withRecord (scriptLoadNum s.params.base x ++ q) d log) =
      .next ((s.withNumIn x).withRecord q (d - 4) (List.replicate 4 .ack ++ log)) := by
  rw [← State.writeRegs_numInWrites]
  exact run_scriptWrites (numInWrites_operand x) hp hb hr q d log

/-! ## What the scripts leave (spec R35, R40, R41, R56) -/

/-- Words read back as the elements they were written from, where the elements fit a word. -/
theorem map_readWord_writeUnits (m : Memory) (unl : Nat → Byte) (a : Nat) {v : Units} (hv : ∀ x ∈ v, x < 2 ^ 32) :
    (List.range v.length).map (fun j => ((m.writeUnits a v).readWord unl (a + 4 * j)).toNat) = v := by
  apply List.ext_getElem
  · simp
  · intro j hj hj'
    rw [List.getElem_map, List.getElem_range, Memory.readWord_writeUnits m unl a v j hj', BitVec.toNat_ofNat,
      Nat.mod_eq_of_lt (hv _ (List.getElem_mem hj'))]

namespace State

variable {s : State}

theorem inUnits_withInput (hp : s.params.legal) {v : Units} (hv : v.length ≤ s.params.ibufDepth)
    (hw : ∀ x ∈ v, x < 2 ^ 32) : (s.withInput v).inUnits = v := by
  obtain ⟨hmax, -⟩ := Params.legal_le hp
  have hlen : (s.withInput v).ilen.toNat = v.length :=
    (BitVec.toNat_ofNat _ 16).trans (Nat.mod_eq_of_lt (by omega))
  have hread := map_readWord_writeUnits s.ibuf (s.unwritten .ibuf) 0 hw
  simp only [Nat.zero_add] at hread
  rw [inUnits, hlen]
  exact hread

theorem keyLenOf_withKeyString {k : Nat} (hk : k < s.keyLen.length) (v : Units) (x : Nat) :
    (s.withKeyString k v).keyLenOf x = if x = k then BitVec.ofNat 16 v.length else s.keyLenOf x := by
  simp only [keyLenOf, withKeyString, List.getD_eq_getElem?_getD, List.getElem?_set, hk, if_true, @eq_comm _ k x]
  split <;> rfl

theorem keyCps_withKeyString_same (hp : s.params.legal) {k : Nat} (hk : k < s.keyLen.length) {v : Units}
    (hv : v.length ≤ s.params.keyDepth) (hw : ∀ x ∈ v, x < 2 ^ 32) : (s.withKeyString k v).keyCps k = v := by
  obtain ⟨-, hmax, -⟩ := Params.legal_le hp
  rw [keyCps, keyLenOf_withKeyString hk, if_pos rfl, BitVec.toNat_ofNat, Nat.mod_eq_of_lt (by omega)]
  exact map_readWord_writeUnits s.key (s.unwritten .key) (keyAddr k 0) hw

/-- A key string stays in its bank (log 12). -/
theorem keyCps_withKeyString_other (hp : s.params.legal) {k : Nat} (hk : k < s.keyLen.length) {v : Units}
    (hv : v.length ≤ s.params.keyDepth) {x : Nat} (hx : x ≠ k) : (s.withKeyString k v).keyCps x = s.keyCps x := by
  obtain ⟨-, hmax, -⟩ := Params.legal_le hp
  rw [keyCps, keyLenOf_withKeyString hk, if_neg hx]
  refine List.map_congr_left fun j hj => congrArg BitVec.toNat ?_
  have hj : j < 65536 := (List.mem_range.mp hj).trans (s.keyLenOf x).isLt
  rcases Nat.lt_or_gt_of_ne hx with h | h
  · exact Memory.readWord_writeUnits_below _ _ _ _ _ (by unfold keyAddr; omega)
  · exact Memory.readWord_writeUnits_above _ _ _ _ _ (by unfold keyAddr; omega)

theorem numIn_withNumIn (s : State) (x : Nat) : (s.withNumIn x).numIn = x % 2 ^ 128 := by
  simp only [withNumIn, numIn, BitVec.toNat_ofNat, Nat.mod_mod]
  omega

end State

/-- Settles O28: the runs of the scripts, and the operands in their last states. -/
theorem loadScriptsPlaceTheOperands : Obligations.LoadScriptsPlaceTheOperands := by
  unfold Obligations.LoadScriptsPlaceTheOperands
  refine ⟨fun s => ⟨rfl, fun _ => rfl⟩, fun s v q hp hb hr hw => ⟨fun hv hq => ?_, fun k hk hl hv hq => ?_,
    fun hs hv hq => ?_, fun x hq => ?_⟩⟩
  · have hrun := run_loadIn hp hb hr hv q s.engineDelay s.hostLog
    rw [State.withRecord_eq hq] at hrun
    exact ⟨_, hrun, rfl, State.inUnits_withInput hp hv hw, rfl, rfl, rfl⟩
  · have hrun := run_loadKey hp hb hr hk hv q s.engineDelay s.hostLog
    rw [State.withRecord_eq hq] at hrun
    rw [← hl] at hk
    exact ⟨_, hrun, rfl, State.keyCps_withKeyString_same hp hk hv hw, rfl, rfl, rfl, rfl,
      fun x hx => State.keyCps_withKeyString_other hp hk hv hx⟩
  · obtain ⟨hutf8, hbytes⟩ := utf8_ok hs
    have hrun := run_loadIn hp hb hr hv q s.engineDelay s.hostLog
    rw [← scriptLoadInBytes, State.withRecord_eq hq] at hrun
    have hin := State.inUnits_withInput hp hv fun x hx => (hbytes x hx).trans (by decide)
    exact ⟨_, hrun, rfl, hutf8.trans (congrArg _ hin.symm), rfl, rfl, rfl⟩
  · have hrun := run_loadNum hp hb hr x q s.engineDelay s.hostLog
    rw [State.withRecord_eq hq] at hrun
    exact ⟨_, hrun, rfl, s.numIn_withNumIn x, rfl, rfl, rfl, rfl, rfl⟩

end Sys2Proof.Machine

/-! # NOP, CONFIGURE and the checks of the primitive commands (spec R85 to R94, R111 to R114, R123, R124, R131, R132) -/

namespace Sys2Proof.Machine

/-! ## NOP and CONFIGURE (spec R88 to R94) -/

/-- Settles O29: NOP is its completion, `State.complete_eq`. -/
theorem nopOnlyCompletes : Obligations.NopOnlyCompletes := fun s => congrArg Host.Outcome.next s.complete_eq

namespace State

variable {s : State}

theorem checkKey_unusable {k : Nat} (h : ¬ s.slotOk k) : s.checkKey k = .error .capacityIn := by
  rw [checkKey, keySlot_error h, bind_error]

theorem checkKey_empty {k : Nat} (h : s.slotOk k) (h0 : (s.keyLenOf k).toNat = 0) :
    s.checkKey k = .error .keyEmpty := by
  rw [checkKey, keySlot_ok h, bind_ok, if_pos (by rw [keyCps_length, h0])]

/-- A key string with a surrogate, or a value past the last code point, is no UTF-8 text (spec R90, R102). -/
theorem not_scalar_keyCps {k : Nat} (h : ∃ j < (s.keyLenOf k).toNat, isScalar (s.keyWord k j).toNat = false) :
    ¬ ∀ c ∈ s.keyCps k, isScalar c = true := by
  obtain ⟨j, hj, hf⟩ := h
  exact fun hall => absurd (forall_keyCps.mp hall j hj) (by simp [hf])

theorem checkKey_badUnit {k : Nat} (h : s.slotOk k)
    (hu : ∃ j < (s.keyLenOf k).toNat, isScalar (s.keyWord k j).toNat = false) : s.checkKey k = .error .badUnit := by
  have hpos : (s.keyCps k).length ≠ 0 := by
    obtain ⟨j, hj, -⟩ := hu
    rw [keyCps_length]
    omega
  rw [checkKey, keySlot_ok h, bind_ok, if_neg hpos, if_neg (mt List.all_eq_true.mp (not_scalar_keyCps hu))]

theorem checkBal_of_checkKey_error {e : ErrCode} (h : s.checkKey 0 = .error e) : s.checkBal = .error e := by
  rw [checkBal, h, bind_error]

theorem checkBal_of_keyOk (h : s.keyOk 0) : s.checkBal = s.checkRounds := by rw [checkBal, checkKey_ok h, bind_ok]

/-- The completion of the checks that BAL and FPE share, under either variant (spec R90, R92, R93, R94). -/
theorem finishConfigure_checkBal (s : State) (v : Variant) :
    (¬ s.slotOk 0 → s.finishConfigure v s.checkBal = .next (s.afterConfigError .capacityIn)) ∧
    (s.slotOk 0 → (s.keyLenOf 0).toNat = 0 →
      s.finishConfigure v s.checkBal = .next (s.afterConfigError .keyEmpty)) ∧
    (s.slotOk 0 → (∃ j < (s.keyLenOf 0).toNat, isScalar (s.keyWord 0 j).toNat = false) →
      s.finishConfigure v s.checkBal = .next (s.afterConfigError .badUnit)) ∧
    (s.keyOk 0 → s.rounds.toNat < 2 → s.finishConfigure v s.checkBal = .next (s.afterConfigError .roundsLow)) ∧
    (s.keyOk 0 → 2 ≤ s.rounds.toNat → s.finishConfigure v s.checkBal = .next (s.afterLatch v)) := by
  refine ⟨fun h => ?_, fun h h0 => ?_, fun h hu => ?_, fun h hr => ?_, fun h hr => ?_⟩
  · rw [checkBal_of_checkKey_error (checkKey_unusable h), finishConfigure_error]
  · rw [checkBal_of_checkKey_error (checkKey_empty h h0), finishConfigure_error]
  · rw [checkBal_of_checkKey_error (checkKey_badUnit h hu), finishConfigure_error]
  · rw [checkBal_of_keyOk h, checkRounds, if_pos hr, finishConfigure_error]
  · rw [checkBal_of_keyOk h, checkRounds, if_neg (Nat.not_lt.mpr hr), finishConfigure_ok]

/-- Of a known engine the checks of FPE are those of BAL (spec R92). -/
theorem checkFpe_of_engineSel {e : Engine} (h : s.engineSel = .ok e) : s.checkFpe = s.checkBal := by
  rw [checkFpe, h, bind_ok, checkBal]

theorem engineSel_of_le (h : s.engine.toNat ≤ 3) : ∃ e, s.engineSel = .ok e := by
  obtain ⟨e, he⟩ := engineOfNumber_isSome.mpr h
  exact ⟨e, engineSel_ok he⟩

theorem checkMk_of_nkeys (h2 : 2 ≤ s.nkeys.toNat) (hmax : s.nkeys.toNat ≤ s.params.nkeysMax) :
    s.checkMk = s.checkKeys (List.range s.nkeys.toNat) := by
  rw [checkMk, if_neg (Nat.not_lt.mpr h2), if_neg (Nat.not_lt.mpr hmax)]

/-- The first slot of 0, …, n - 1 that fails decides (spec R91). -/
theorem checkKeys_range_error {n k : Nat} {e : ErrCode} (hk : k < n) (hbefore : ∀ k' < k, s.keyOk k')
    (h : s.checkKey k = .error e) : s.checkKeys (List.range n) = .error e := by
  obtain ⟨d, rfl⟩ := Nat.exists_eq_add_of_lt hk
  have hsplit : List.range (k + d + 1) = List.range k ++ k :: (List.range d).map (k + 1 + ·) := by
    rw [show k + d + 1 = k + 1 + d by omega, List.range_add, List.range_succ, List.append_assoc, List.singleton_append]
  rw [hsplit]
  exact checkKeys_error (fun x hx => hbefore x (List.mem_range.mp hx)) h

end State

/-- Settles O30: by `State.finishConfigure_checkBal`. -/
theorem configureBalChecksAndLatches : Obligations.ConfigureBalChecksAndLatches :=
  fun s => s.finishConfigure_checkBal .bal

/-- Settles O32: the engine first, then as for BAL. -/
theorem configureFpeChecksAndLatches : Obligations.ConfigureFpeChecksAndLatches := by
  unfold Obligations.ConfigureFpeChecksAndLatches
  intro s
  have hexec : exec .configureFpe s = s.finishConfigure .fpe s.checkFpe := rfl
  rw [hexec]
  refine ⟨fun he => ?_, fun he => ?_⟩
  · rw [State.checkFpe, State.engineSel_error he, bind_error, State.finishConfigure_error]
  · obtain ⟨e, he⟩ := State.engineSel_of_le he
    rw [State.checkFpe_of_engineSel he]
    exact s.finishConfigure_checkBal .fpe

/-- Settles O31: the count first, then the first slot that fails, `State.checkKeys_range_error`. -/
theorem configureMkChecksAndLatches : Obligations.ConfigureMkChecksAndLatches := by
  unfold Obligations.ConfigureMkChecksAndLatches
  intro s
  have hexec : exec .configureMk s = s.finishConfigure .mk s.checkMk := rfl
  rw [hexec]
  refine ⟨fun h => ?_, fun h2 hmax => ?_, fun h2 hmax k hk hbefore => ?_, fun h2 hmax hkeys => ?_⟩
  · rw [State.checkMk, if_pos h, State.finishConfigure_error]
  · rw [State.checkMk, if_neg (Nat.not_lt.mpr h2), if_pos hmax, State.finishConfigure_error]
  · have hslot : ∀ {e}, s.checkKey k = .error e →
        s.finishConfigure .mk s.checkMk = .next (s.afterConfigError e) := fun he => by
      rw [State.checkMk_of_nkeys h2 hmax, State.checkKeys_range_error hk hbefore he, State.finishConfigure_error]
    refine ⟨fun hlen => hslot (State.checkKey_unusable fun hs => ?_), fun h0 => hslot (State.checkKey_empty ?_ h0),
      fun hs hu => hslot (State.checkKey_badUnit hs hu)⟩
    · exact absurd hs.2 (Nat.not_le.mpr hlen)
    · exact ⟨hk.trans_le hmax, by omega⟩
  · rw [State.checkMk_of_nkeys h2 hmax,
      State.checkKeys_eq_ok.mpr fun k hk => hkeys k (List.mem_range.mp hk), State.finishConfigure_ok]

/-! ## How an output command ends (spec R46, R85, R173, R174) -/

theorem exec_of_result_error {i : Instr} {s : State} {e : ErrCode} (hi : commandClass i = some .output)
    (h : outputResult s i = .error e) : exec i s = .next (s.afterOutputError e) := by
  rw [exec_output hi, h, State.finishOutput_error]

theorem exec_of_result_full {i : Instr} {s : State} {v : Units} (hi : commandClass i = some .output)
    (h : outputResult s i = .ok v) (hv : s.params.obufDepth < v.length) :
    exec i s = .next (s.afterOutputError .capacityOut) := by
  rw [exec_output hi, h, State.finishOutput_full hv]

/-! ## ADD and XOR (spec R111, R112) -/

theorem isByte_eq_false {u : Nat} (h : 0xFF < u) : isByte u = false := decide_eq_false (Nat.not_le.mpr h)

theorem isCodePoint_eq_false {u : Nat} (h : 0x10FFFF < u) : isCodePoint u = false :=
  decide_eq_false (Nat.not_le.mpr h)

theorem addCp_ne {a b : Units} (h : a.length ≠ b.length) : addCp a b = .error .lengthMismatch := if_pos h

theorem addBytes_ne {a b : Units} (h : a.length ≠ b.length) : addBytes a b = .error .lengthMismatch := if_pos h

namespace State

variable {s : State} {m : Mode}

theorem operandPair_of_input_error {e : ErrCode} (h : (s.inVec >>= checkUnits (unitCheck m)) = .error e) :
    s.operandPair m = .error e := by
  rcases bind_eq_error.mp h with hv | ⟨v, hv, hc⟩
  · rw [operandPair, hv, bind_error]
  · rw [operandPair, hv, bind_ok, hc, bind_error]

theorem operandPair_of_inputOk (h : s.inputOk (unitCheck m)) : s.operandPair m =
    if s.ilen.toNat < s.arg0.toNat then .error .lengthMismatch
    else .ok (s.inUnits.take s.arg0.toNat, s.inUnits.drop s.arg0.toNat) := by
  rw [operandPair, inVec_ok h.1, bind_ok, checkUnits_ok h.forall_mem, bind_ok, inUnits_length]

theorem addResult_of_operandPair_error {e : ErrCode} (h : s.operandPair m = .error e) : s.addResult m = .error e := by
  rw [addResult, h, bind_error]

theorem xorResult_of_operandPair_error {e : ErrCode} (h : s.operandPair m = .error e) : s.xorResult m = .error e := by
  rw [xorResult, h, bind_error]

/-- ADD and XOR report what is wrong with their operands in the same way (spec R111, R112). -/
theorem exec_add_xor_of_operandPair_error {e : ErrCode} (h : s.operandPair m = .error e) :
    exec (.add m) s = .next (s.afterOutputError e) ∧ exec (.xor m) s = .next (s.afterOutputError e) :=
  ⟨exec_of_result_error rfl (addResult_of_operandPair_error h),
    exec_of_result_error rfl (xorResult_of_operandPair_error h)⟩

/-- IN is no pair of halves of ARG0 units each (spec R111, R112). -/
theorem exec_add_xor_lengthMismatch (h : s.inputOk (unitCheck m)) (hl : s.ilen.toNat ≠ 2 * s.arg0.toNat) :
    exec (.add m) s = .next (s.afterOutputError .lengthMismatch) ∧
      exec (.xor m) s = .next (s.afterOutputError .lengthMismatch) := by
  have hpair := operandPair_of_inputOk h
  split_ifs at hpair with hshort
  · exact exec_add_xor_of_operandPair_error hpair
  · have hne : (s.inUnits.take s.arg0.toNat).length ≠ (s.inUnits.drop s.arg0.toNat).length := by
      rw [List.length_take, List.length_drop, inUnits_length]
      omega
    refine ⟨exec_of_result_error rfl ?_, exec_of_result_error rfl ?_⟩
    · cases m with
      | cp => rw [outputResult, addResult, hpair, bind_ok]; exact addCp_ne hne
      | byte => rw [outputResult, addResult, hpair, bind_ok]; exact addBytes_ne hne
    · rw [outputResult, xorResult, hpair, bind_ok]
      exact xorUnits_ne hne

theorem operandPair_ok (h : s.inputOk (unitCheck m)) (hl : s.ilen.toNat = 2 * s.arg0.toNat) :
    s.operandPair m = .ok (s.inUnits.take s.arg0.toNat, s.inUnits.drop s.arg0.toNat) := by
  rw [operandPair_of_inputOk h, if_neg (by omega)]

theorem halves_length (hl : s.ilen.toNat = 2 * s.arg0.toNat) :
    (s.inUnits.take s.arg0.toNat).length = s.arg0.toNat ∧ (s.inUnits.drop s.arg0.toNat).length = s.arg0.toNat := by
  rw [List.length_take, List.length_drop, inUnits_length]
  omega

/-- The two halves of IN, position by position. -/
theorem zipWith_halves {α : Type} (f : Nat → Nat → α) (hl : s.ilen.toNat = 2 * s.arg0.toNat) :
    List.zipWith f (s.inUnits.take s.arg0.toNat) (s.inUnits.drop s.arg0.toNat) =
      (List.range s.arg0.toNat).map fun j => f (s.ibufWord j).toNat (s.ibufWord (s.arg0.toNat + j)).toNat := by
  obtain ⟨ha, hb⟩ := halves_length hl
  refine List.ext_getElem (by simp [ha, hb]) fun j hj _ => ?_
  simp [inUnits]

theorem addResult_cp (h : s.inputOk isCodePoint) (hl : s.ilen.toNat = 2 * s.arg0.toNat) :
    s.addResult .cp = .ok ((List.range s.arg0.toNat).map fun j =>
      (s.ibufWord j).toNat + (s.ibufWord (s.arg0.toNat + j)).toNat) := by
  obtain ⟨ha, hb⟩ := halves_length hl
  rw [addResult, operandPair_ok h hl, bind_ok, ← zipWith_halves (· + ·) hl]
  exact addCp_ok (ha.trans hb.symm)

theorem addResult_byte (h : s.inputOk isByte) (hl : s.ilen.toNat = 2 * s.arg0.toNat) :
    s.addResult .byte = .ok ((List.range s.arg0.toNat).flatMap fun j =>
      expandSum (s.ibufWord j).toNat (s.ibufWord (s.arg0.toNat + j)).toNat) := by
  obtain ⟨ha, hb⟩ := halves_length hl
  rw [addResult, operandPair_ok h hl, bind_ok, List.flatMap_def, ← zipWith_halves expandSum hl]
  exact addBytes_ok (ha.trans hb.symm)

theorem xorResult_ok (h : s.inputOk (unitCheck m)) (hl : s.ilen.toNat = 2 * s.arg0.toNat) :
    s.xorResult m = .ok ((List.range s.arg0.toNat).map fun j =>
      (s.ibufWord j).toNat ^^^ (s.ibufWord (s.arg0.toNat + j)).toNat) := by
  obtain ⟨ha, hb⟩ := halves_length hl
  rw [xorResult, operandPair_ok h hl, bind_ok, ← zipWith_halves (· ^^^ ·) hl]
  exact xorUnits_ok (ha.trans hb.symm)

/-! ## PAD, UNPAD and the codec (spec R113, R114, R131, R132) -/

theorem exec_pad_unpad_of_cpIn_error {e : ErrCode} (h : s.cpIn = .error e) :
    exec .pad s = .next (s.afterOutputError e) ∧ exec .unpad s = .next (s.afterOutputError e) :=
  ⟨exec_of_result_error rfl (map_eq_error.mpr h), exec_of_result_error rfl (map_eq_error.mpr h)⟩

theorem exec_b256Enc_of_bytesIn_error {e : ErrCode} (h : s.bytesIn = .error e) :
    exec .b256Enc s = .next (s.afterOutputError e) := exec_of_result_error rfl (map_eq_error.mpr h)

end State

/-- UNPAD strips a run of markers and no unit after it (spec R107). -/
theorem unpadUnits_replicate_append (n : Nat) {rest : Units} (h : rest.head? ≠ some Config.padMark) :
    unpadUnits (List.replicate n Config.padMark ++ rest) = rest := by
  induction n with
  | zero => exact unpadUnits_of_head h
  | succ n ih =>
    rw [List.replicate_succ, List.cons_append, unpadUnits, List.dropWhile_cons_of_pos (by simp)]
    exact ih

theorem b256DecUnits_cons_of_mem {t : Units} {c : Nat} (h : c ∈ t) (cs : Units) :
    ∃ x, b256DecUnits t (c :: cs) = (b256DecUnits t cs).map (x :: ·) := by
  rcases hx : t.idxOf? c with _ | x
  · exact absurd h (List.idxOf?_eq_none_iff.mp hx)
  · exact ⟨x, by rw [b256DecUnits, hx]⟩

theorem b256DecUnits_cons_of_notMem {t : Units} {c : Nat} (h : c ∉ t) (cs : Units) :
    b256DecUnits t (c :: cs) = .error .ctBadChar := by rw [b256DecUnits, List.idxOf?_eq_none_iff.mpr h]

/-- A character that is not in the table ends B256DEC with 0x32 (spec R128). -/
theorem b256DecUnits_absent {t v : Units} (h : ∃ c ∈ v, c ∉ t) : b256DecUnits t v = .error .ctBadChar := by
  induction v with
  | nil => simp at h
  | cons c cs ih =>
    by_cases hc : c ∈ t
    · obtain ⟨x, hx⟩ := b256DecUnits_cons_of_mem hc cs
      rw [hx, ih (by simpa [hc] using h), map_error]
    · exact b256DecUnits_cons_of_notMem hc cs

theorem b256DecUnits_present {t v : Units} (h : ∀ c ∈ v, c ∈ t) : ∃ b, b256DecUnits t v = .ok b := by
  induction v with
  | nil => exact ⟨[], rfl⟩
  | cons c cs ih =>
    obtain ⟨x, hx⟩ := b256DecUnits_cons_of_mem (h c (by simp)) cs
    obtain ⟨b, hb⟩ := ih fun y hy => h y (by simp [hy])
    exact ⟨x :: b, by rw [hx, hb, map_ok]⟩

/-! ## DIGEST and ROUND (spec R123, R124) -/

/-- The number of units DIGEST gives (spec R123). -/
def digestLength : Form → Nat
  | .raw => 32
  | .rendered => 64

theorem roundB_eq_ok_length {dg : DigestFn} {item kb out : Units} {i : Nat} {e : Engine}
    (h : roundB dg item i kb e = .ok out) : out.length = item.length := (isMask_roundB dg kb e).length h

theorem roundCp_eq_ok_length {dg : DigestFn} {item key out : Units} {i : Nat} {e : Engine}
    (h : roundCp dg item i key e = .ok out) : out.length = item.length :=
  (isMask_roundCp dg (fun _ => key) e).length h

namespace State

variable {s : State} {e : Engine} {x : ErrCode} {dg : DigestFn}

theorem digestResult_of_bytesIn_error (he : s.engineSel = .ok e) (h : s.bytesIn = .error x) (f : Form) :
    s.digestResult dg f = .error x := by rw [digestResult, he, bind_ok, h, bind_error]

theorem digestResult_ok_length (he : s.engineSel = .ok e) (h : s.inputOk isByte) (f : Form) :
    ∃ v, s.digestResult dg f = .ok v ∧ v.length = digestLength f := by
  rw [digestResult, he, bind_ok, bytesIn_ok h, bind_ok]
  cases f with
  | raw => exact ⟨_, rfl, by simp [digestLength]⟩
  | rendered => exact ⟨_, rfl, hex_length _⟩

theorem roundResult_of_keySlot_error (he : s.engineSel = .ok e) (h : s.keySlot s.keySel.toNat = .error x) (m : Mode) :
    s.roundResult dg m = .error x := by rw [roundResult, he, bind_ok, h, bind_error]

theorem roundResult_cp (he : s.engineSel = .ok e) (hk : s.slotOk s.keySel.toNat) : s.roundResult dg .cp =
    (s.cpIn >>= fun item => roundCp dg item s.arg0.toNat (s.keyCps s.keySel.toNat) e) := by
  rw [roundResult, he, bind_ok, keySlot_ok hk, bind_ok]

theorem roundResult_byte (he : s.engineSel = .ok e) (hk : s.slotOk s.keySel.toNat) : s.roundResult dg .byte =
    (s.bytesIn >>= fun item => s.keyBytes s.keySel.toNat >>= fun kb => roundB dg item s.arg0.toNat kb e) := by
  rw [roundResult, he, bind_ok, keySlot_ok hk, bind_ok]
  rfl

theorem keyCps_getD {k j : Nat} (h : j < (s.keyLenOf k).toNat) : (s.keyCps k).getD j 0 = (s.keyWord k j).toNat := by
  rw [List.getD_eq_getElem _ _ (by simpa using h)]
  simp [keyCps]

theorem keyCps_ne_nil {k : Nat} (h : 0 < (s.keyLenOf k).toNat) : s.keyCps k ≠ [] := by
  rwa [← List.length_pos_iff, keyCps_length]

theorem keyCps_eq_nil {k : Nat} (h : (s.keyLenOf k).toNat = 0) : s.keyCps k = [] := by
  rwa [← List.length_eq_zero_iff, keyCps_length]

/-- One sum of ROUND in code-point mode, of a unit of IN and the key word that wraps round to it (spec R119, R124). -/
theorem inUnits_add_keyCps {k i j : Nat} (hk : 0 < (s.keyLenOf k).toNat) (hj : j < s.ilen.toNat) :
    s.inUnits.getD j 0 + (s.keyCps k).getD ((i + j) % (s.keyCps k).length) 0 =
      (s.ibufWord j).toNat + (s.keyWord k ((i + j) % (s.keyLenOf k).toNat)).toNat := by
  rw [inUnits_getD s hj, keyCps_length, keyCps_getD (Nat.mod_lt _ hk)]

theorem roundResult_of_input_error {m : Mode} (he : s.engineSel = .ok e) (hk : s.slotOk s.keySel.toNat)
    (hcp : m = .cp → s.cpIn = .error x) (hbyte : m = .byte → s.bytesIn = .error x) :
    s.roundResult dg m = .error x := by
  cases m with
  | cp => rw [roundResult_cp he hk, hcp rfl, bind_error]
  | byte => rw [roundResult_byte he hk, hbyte rfl, bind_error]

/-- Of an input that does not fit ROUND reports 0xE1, whether or not the slot can be used (spec R124). -/
theorem roundResult_capacity (he : s.engineSel = .ok e) (h : s.params.ibufDepth < s.ilen.toNat) (m : Mode) :
    s.roundResult dg m = .error .capacityIn := by
  by_cases hk : s.slotOk s.keySel.toNat
  · exact roundResult_of_input_error he hk (fun _ => checkedIn_capacity h) fun _ => checkedIn_capacity h
  · exact roundResult_of_keySlot_error he (keySlot_error hk) m

theorem roundResult_cp_keyEmpty (he : s.engineSel = .ok e) (hk : s.slotOk s.keySel.toNat) (hin : s.inputOk isScalar)
    (h : (s.keyLenOf s.keySel.toNat).toNat = 0) : s.roundResult dg .cp = .error .keyEmpty := by
  rw [roundResult_cp he hk, cpIn_ok hin, bind_ok, keyCps_eq_nil h, roundCp, extractUnits_nil, bind_error]

theorem roundResult_cp_unencodable (he : s.engineSel = .ok e) (hk : s.slotOk s.keySel.toNat)
    (hin : s.inputOk isScalar) (hpos : 0 < (s.keyLenOf s.keySel.toNat).toNat)
    (h : ∃ j < s.ilen.toNat, isScalar ((s.ibufWord j).toNat + (s.keyWord s.keySel.toNat
      ((s.arg0.toNat + j) % (s.keyLenOf s.keySel.toNat).toNat)).toNat) = false) :
    s.roundResult dg .cp = .error .unencodable := by
  rw [roundResult_cp he hk, cpIn_ok hin, bind_ok]
  obtain ⟨j, hj, hf⟩ := h
  exact roundCp_unencodable dg (keyCps_ne_nil hpos) e
    ⟨j, hj.trans_eq s.inUnits_length.symm, by rwa [inUnits_add_keyCps hpos hj]⟩

theorem roundResult_cp_ok_length (he : s.engineSel = .ok e) (hk : s.slotOk s.keySel.toNat)
    (hin : s.inputOk isScalar) (hpos : 0 < (s.keyLenOf s.keySel.toNat).toNat)
    (h : ∀ j < s.ilen.toNat, isScalar ((s.ibufWord j).toNat + (s.keyWord s.keySel.toNat
      ((s.arg0.toNat + j) % (s.keyLenOf s.keySel.toNat).toNat)).toNat) = true) :
    ∃ v, s.roundResult dg .cp = .ok v ∧ v.length = s.ilen.toNat := by
  obtain ⟨v, hv⟩ := roundCp_scalar dg (item := s.inUnits) (i := s.arg0.toNat) (keyCps_ne_nil hpos) e fun j hj => by
    have hj : j < s.ilen.toNat := hj.trans_eq s.inUnits_length
    rw [inUnits_add_keyCps hpos hj]
    exact h j hj
  refine ⟨v, ?_, (roundCp_eq_ok_length hv).trans s.inUnits_length⟩
  rw [roundResult_cp he hk, cpIn_ok hin, bind_ok, hv]

theorem roundResult_byte_unencodable (he : s.engineSel = .ok e) (hk : s.slotOk s.keySel.toNat)
    (hin : s.inputOk isByte) (h : ∃ j < (s.keyLenOf s.keySel.toNat).toNat,
      isScalar (s.keyWord s.keySel.toNat j).toNat = false) : s.roundResult dg .byte = .error .unencodable := by
  rw [roundResult_byte he hk, bytesIn_ok hin, bind_ok, keyBytes, utf8_error (not_scalar_keyCps h), bind_error]

theorem roundResult_byte_keyEmpty (he : s.engineSel = .ok e) (hk : s.slotOk s.keySel.toNat) (hin : s.inputOk isByte)
    (h : (s.keyLenOf s.keySel.toNat).toNat = 0) : s.roundResult dg .byte = .error .keyEmpty := by
  rw [roundResult_byte he hk, bytesIn_ok hin, bind_ok, keyBytes, keyCps_eq_nil h, utf8_nil, bind_ok, roundB_nil]

theorem roundResult_byte_ok_length (he : s.engineSel = .ok e) (hk : s.keyOk s.keySel.toNat) (hin : s.inputOk isByte) :
    ∃ v, s.roundResult dg .byte = .ok v ∧ v.length = s.ilen.toNat := by
  obtain ⟨hslot, -, hscalar⟩ := id hk
  have hkb := (utf8_ok (forall_keyCps.mpr hscalar)).1
  have hv := roundB_ok dg s.inUnits s.arg0.toNat (utf8_ne_nil hkb hk.cps_ne_nil) e
  refine ⟨_, ?_, (roundB_eq_ok_length hv).trans s.inUnits_length⟩
  rw [roundResult_byte he hslot, bytesIn_ok hin, bind_ok, keyBytes, hkb, bind_ok, hv]

end State

/-! ## The first failing check -/

namespace State

variable {s : State}

/-- DIGEST and ROUND look for their engine first (spec R123, R124). -/
theorem exec_digest_round_engineBad (he : 3 < s.engine.toNat) (m : Mode) (f : Form) :
    ∀ i ∈ [Instr.digest f, .round m], exec i s = .next (s.afterOutputError .engineBad) := by
  have hsel := engineSel_error he
  simp only [List.mem_cons, List.not_mem_nil, or_false, forall_eq_or_imp, forall_eq]
  refine ⟨exec_of_result_error rfl ?_, exec_of_result_error rfl ?_⟩
  · rw [outputResult, digestResult, hsel, bind_error]
  · rw [outputResult, roundResult, hsel, bind_error]

/-- IN does not fit IBUF (spec R82). -/
theorem exec_capacityIn (h : s.params.ibufDepth < s.ilen.toNat) (m : Mode) :
    ∀ i ∈ [Instr.add m, .xor m, .pad, .unpad, .b256Enc, .b256Dec],
      exec i s = .next (s.afterOutputError .capacityIn) := by
  obtain ⟨hadd, hxor⟩ := exec_add_xor_of_operandPair_error (operandPair_of_input_error (m := m) (checkedIn_capacity h))
  obtain ⟨hpad, hunpad⟩ := exec_pad_unpad_of_cpIn_error (checkedIn_capacity h)
  have henc := exec_b256Enc_of_bytesIn_error (checkedIn_capacity h)
  have hdec : exec .b256Dec s = .next (s.afterOutputError .capacityIn) :=
    exec_of_result_error rfl (by rw [outputResult, inVec_error h, bind_error])
  simp only [List.mem_cons, List.not_mem_nil, or_false, forall_eq_or_imp, forall_eq]
  exact ⟨hadd, hxor, hpad, hunpad, henc, hdec⟩

/-- A unit of IN is past the range that ADD and XOR take in a mode (spec R111, R112). -/
theorem exec_add_xor_badUnit {m : Mode} (h : s.ilen.toNat ≤ s.params.ibufDepth)
    (hu : ∃ j < s.ilen.toNat, unitCheck m (s.ibufWord j).toNat = false) :
    exec (.add m) s = .next (s.afterOutputError .badUnit) ∧ exec (.xor m) s = .next (s.afterOutputError .badUnit) :=
  exec_add_xor_of_operandPair_error (operandPair_of_input_error (checkedIn_badUnit h hu))

theorem exec_b256Dec_badChar (h : s.ilen.toNat ≤ s.params.ibufDepth)
    (hu : ∃ j < s.ilen.toNat, (s.ibufWord j).toNat ∉ s.params.b256) :
    exec .b256Dec s = .next (s.afterOutputError .ctBadChar) := by
  obtain ⟨j, hj, hc⟩ := hu
  refine exec_of_result_error rfl ?_
  rw [outputResult, inVec_ok h, bind_ok, b256DecUnits_absent ⟨_, mem_inUnits.mpr ⟨j, hj, rfl⟩, hc⟩]

theorem exec_b256Dec_full (h : s.ilen.toNat ≤ s.params.ibufDepth) (hfull : s.params.obufDepth < s.ilen.toNat)
    (htable : ∀ j < s.ilen.toNat, (s.ibufWord j).toNat ∈ s.params.b256) :
    exec .b256Dec s = .next (s.afterOutputError .capacityOut) := by
  obtain ⟨b, hb⟩ := b256DecUnits_present (t := s.params.b256) (v := s.inUnits) fun c hc => by
    obtain ⟨j, hj, rfl⟩ := mem_inUnits.mp hc
    exact htable j hj
  refine exec_of_result_full rfl (v := b) ?_ ?_
  · rw [outputResult, inVec_ok h, bind_ok, hb]
  · rwa [b256DecUnits_length hb, inUnits_length]

theorem exec_pad_full (hin : s.inputOk isScalar) (hfull : s.params.obufDepth < s.ilen.toNat + s.ilen.toNat % 2) :
    exec .pad s = .next (s.afterOutputError .capacityOut) := by
  refine exec_of_result_full rfl (v := padUnits s.inUnits) ?_ ?_
  · rw [outputResult, cpIn_ok hin, map_ok]
  · rwa [padUnits_length, inUnits_length]

theorem exec_unpad_full (hin : s.inputOk isScalar) {n : Nat} {rest : Units}
    (hmark : s.inUnits = List.replicate n Config.padMark ++ rest) (hhead : rest.head? ≠ some Config.padMark)
    (hfull : s.params.obufDepth < rest.length) : exec .unpad s = .next (s.afterOutputError .capacityOut) := by
  refine exec_of_result_full rfl ?_ hfull
  rw [outputResult, cpIn_ok hin, map_ok, hmark, unpadUnits_replicate_append n hhead]

theorem exec_b256Enc_full (hin : s.inputOk isByte) (hfull : s.params.obufDepth < s.ilen.toNat) :
    exec .b256Enc s = .next (s.afterOutputError .capacityOut) := by
  refine exec_of_result_full rfl (v := b256EncUnits s.params.b256 s.inUnits) ?_ ?_
  · rw [outputResult, bytesIn_ok hin, map_ok]
  · rwa [b256EncUnits_length, inUnits_length]

theorem exec_digest_full {e : Engine} {f : Form} (he : s.engineSel = .ok e) (hin : s.inputOk isByte)
    (hfull : s.params.obufDepth < digestLength f) : exec (.digest f) s = .next (s.afterOutputError .capacityOut) := by
  obtain ⟨v, hv, hlen⟩ := digestResult_ok_length he hin f
  exact exec_of_result_full rfl hv (by rwa [hlen])

theorem exec_round_full {m : Mode} (hfull : s.params.obufDepth < s.ilen.toNat)
    (h : ∃ v, s.roundResult Config.digest m = .ok v ∧ v.length = s.ilen.toNat) :
    exec (.round m) s = .next (s.afterOutputError .capacityOut) := by
  obtain ⟨v, hv, hlen⟩ := h
  exact exec_of_result_full rfl hv (by rwa [hlen])

end State

/-- Settles O38: for each clause, the result of its commands, and `exec_of_result_error` or `exec_of_result_full`. -/
theorem primitiveCommandsReportTheFirstFailingCheck : Obligations.PrimitiveCommandsReportTheFirstFailingCheck := by
  unfold Obligations.PrimitiveCommandsReportTheFirstFailingCheck
  intro s m f
  refine ⟨fun he => State.exec_digest_round_engineBad he m f, fun he hk => ?_,
    fun hcap => ⟨State.exec_capacityIn hcap m, fun he => ?_⟩, fun hfit => ⟨fun ⟨j, hj, hu⟩ => ?_, fun hu => ?_,
      fun ⟨j, hj, hu⟩ => ?_, State.exec_b256Dec_badChar hfit⟩,
    State.exec_add_xor_lengthMismatch, fun hin hl => ⟨fun hfull => ⟨?_, ?_⟩, ?_⟩,
    fun hin => ⟨State.exec_pad_full hin, fun n rest => State.exec_unpad_full hin⟩,
    fun hin => ⟨State.exec_b256Enc_full hin, fun he hfull => ?_⟩, State.exec_b256Dec_full,
    fun he hk hin => ?_, fun he hk hin => ?_⟩
  · obtain ⟨e, he⟩ := State.engineSel_of_le he
    exact exec_of_result_error rfl (State.roundResult_of_keySlot_error he (State.keySlot_error hk) m)
  · obtain ⟨e, he⟩ := State.engineSel_of_le he
    exact ⟨exec_of_result_error rfl (State.digestResult_of_bytesIn_error he (State.checkedIn_capacity hcap) f),
      exec_of_result_error rfl (State.roundResult_capacity he hcap m)⟩
  · refine State.exec_add_xor_badUnit hfit ⟨j, hj, ?_⟩
    cases m with
    | cp => exact isCodePoint_eq_false hu
    | byte => exact isByte_eq_false hu
  · have hin : s.cpIn = .error .badUnit := State.checkedIn_badUnit hfit hu
    obtain ⟨hpad, hunpad⟩ := State.exec_pad_unpad_of_cpIn_error hin
    refine ⟨hpad, hunpad, fun he hk => ?_⟩
    obtain ⟨e, he⟩ := State.engineSel_of_le he
    exact exec_of_result_error rfl (State.roundResult_of_input_error (m := .cp) he hk (fun _ => hin) nofun)
  · have hin : s.bytesIn = .error .badUnit := State.checkedIn_badUnit hfit ⟨j, hj, isByte_eq_false hu⟩
    refine ⟨State.exec_b256Enc_of_bytesIn_error hin, fun he => ?_⟩
    obtain ⟨e, he⟩ := State.engineSel_of_le he
    exact ⟨exec_of_result_error rfl (State.digestResult_of_bytesIn_error he hin f),
      fun hk => exec_of_result_error rfl (State.roundResult_of_input_error (m := .byte) he hk nofun fun _ => hin)⟩
  · exact exec_of_result_full rfl (State.xorResult_ok hin hl) (by simpa using hfull)
  · rintro rfl
    exact exec_of_result_full rfl (State.addResult_cp hin hl) (by simpa using hfull)
  · rintro rfl hfull
    exact exec_of_result_full rfl (State.addResult_byte hin hl) hfull
  · obtain ⟨e, he⟩ := State.engineSel_of_le he
    exact State.exec_digest_full he hin hfull
  · obtain ⟨e, he⟩ := State.engineSel_of_le he
    exact ⟨fun h0 => exec_of_result_error rfl (State.roundResult_cp_keyEmpty he hk hin h0),
      fun hpos => ⟨fun hsum => exec_of_result_error rfl (State.roundResult_cp_unencodable he hk hin hpos hsum),
        fun hsum hfull => State.exec_round_full hfull (State.roundResult_cp_ok_length he hk hin hpos hsum)⟩⟩
  · obtain ⟨e, he⟩ := State.engineSel_of_le he
    exact ⟨fun hkey => exec_of_result_error rfl (State.roundResult_byte_unencodable he hk hin hkey),
      fun h0 => exec_of_result_error rfl (State.roundResult_byte_keyEmpty he hk hin h0),
      fun hkey hfull => State.exec_round_full hfull (State.roundResult_byte_ok_length he hkey hin)⟩

end Sys2Proof.Machine

/-! # The utility commands and the laws of their text (spec R82 to R85, R97 to R114) -/

namespace Sys2Proof.Machine

/-- An output command whose result fits OBUF writes it (spec R46, R85). -/
theorem exec_of_result_ok {i : Instr} {s : State} {v : Units} (hi : commandClass i = some .output)
    (h : outputResult s i = .ok v) (hv : v.length ≤ s.params.obufDepth) : exec i s = .next (s.afterOutput v) := by
  rw [exec_output hi, h, State.finishOutput_ok hv]

/-! ## EXTRACT (spec R97, R110) -/

namespace State

variable {s : State} {m : Mode}

theorem extractMaterial_cp (hk : s.slotOk s.keySel.toNat) :
    s.extractMaterial .cp = .ok (s.keyCps s.keySel.toNat) := by
  rw [extractMaterial, keySlot_ok hk, bind_ok]

theorem extractMaterial_byte (hk : s.slotOk s.keySel.toNat) :
    s.extractMaterial .byte = utf8 (s.keyCps s.keySel.toNat) := by
  rw [extractMaterial, keySlot_ok hk, bind_ok]

/-- An empty key string is empty material in both modes. -/
theorem extractMaterial_nil (hk : s.slotOk s.keySel.toNat) (h : (s.keyLenOf s.keySel.toNat).toNat = 0) (m : Mode) :
    s.extractMaterial m = .ok [] := by
  cases m with
  | cp => rw [extractMaterial_cp hk, keyCps_eq_nil h]
  | byte => rw [extractMaterial_byte hk, keyCps_eq_nil h, utf8_nil]

/-- A key string that is not empty, and in byte mode all scalar values, gives material that is not empty. -/
theorem extractMaterial_ne_nil (hk : s.slotOk s.keySel.toNat) (hpos : 0 < (s.keyLenOf s.keySel.toNat).toNat)
    (hsc : m = .byte → ∀ j < (s.keyLenOf s.keySel.toNat).toNat, isScalar (s.keyWord s.keySel.toNat j).toNat = true) :
    ∃ mat, s.extractMaterial m = .ok mat ∧ mat ≠ [] := by
  cases m with
  | cp => exact ⟨_, extractMaterial_cp hk, keyCps_ne_nil hpos⟩
  | byte =>
    obtain ⟨hutf, -⟩ := utf8_ok (forall_keyCps.mpr (hsc rfl))
    exact ⟨_, (extractMaterial_byte hk).trans hutf, utf8_ne_nil hutf (keyCps_ne_nil hpos)⟩

theorem extractResult_of_material_error {e : ErrCode} (h : s.extractMaterial m = .error e) :
    s.extractResult m = .error e := by rw [extractResult, h, bind_error]

/-- The checks of EXTRACT once it has its material (spec R110). -/
theorem extractResult_of_material {mat : Units} (h : s.extractMaterial m = .ok mat) : s.extractResult m =
    if mat.length = 0 then .error .keyEmpty
    else if s.params.obufDepth < s.arg1.toNat then .error .capacityOut
    else extractUnits mat s.arg0.toNat s.arg1.toNat := by rw [extractResult, h, bind_ok]

end State

/-- Settles O33: the material passes both checks of `State.extractResult_of_material`. -/
theorem extractWritesTheWrappedSlice : Obligations.ExtractWritesTheWrappedSlice := by
  unfold Obligations.ExtractWritesTheWrappedSlice
  intro s m mat hk hmat hpos hfit
  have hm : s.extractMaterial m = .ok mat := by
    rcases hmat with ⟨rfl, rfl⟩ | ⟨rfl, hutf⟩
    · exact State.extractMaterial_cp hk
    · exact (State.extractMaterial_byte hk).trans hutf
  refine exec_of_result_ok rfl ?_ (by simpa using hfit)
  rw [outputResult, State.extractResult_of_material hm, if_neg (Nat.pos_iff_ne_zero.mp hpos),
    if_neg (Nat.not_lt.mpr hfit), extractUnits_ok (List.length_pos_iff.mp hpos)]

/-- Settles O34: the slot and the text fail while the material is read, the other two checks after it. -/
theorem extractReportsTheFirstFailingCheck : Obligations.ExtractReportsTheFirstFailingCheck := by
  unfold Obligations.ExtractReportsTheFirstFailingCheck
  intro s m
  refine ⟨fun hk => exec_of_result_error rfl ?_, fun hk => ⟨?_, fun h0 => exec_of_result_error rfl ?_,
    fun hpos hfull hsc => exec_of_result_error rfl ?_⟩⟩
  · exact State.extractResult_of_material_error (by rw [State.extractMaterial, State.keySlot_error hk, bind_error])
  · rintro rfl hu
    refine exec_of_result_error rfl (State.extractResult_of_material_error ?_)
    rw [State.extractMaterial_byte hk, utf8_error (State.not_scalar_keyCps hu)]
  · rw [outputResult, State.extractResult_of_material (State.extractMaterial_nil hk h0 m), if_pos List.length_nil]
  · obtain ⟨mat, hm, hne⟩ := State.extractMaterial_ne_nil hk hpos hsc
    rw [outputResult, State.extractResult_of_material hm, if_neg (mt List.length_eq_zero_iff.mp hne), if_pos hfull]

/-! ## ADD, XOR, PAD and UNPAD (spec R98 to R100, R106, R107, R111 to R114) -/

theorem isCodePoint_iff (u : Nat) : isCodePoint u = true ↔ u ≤ 0x10FFFF := decide_eq_true_iff

theorem isByte_iff (u : Nat) : isByte u = true ↔ u ≤ 0xFF := decide_eq_true_iff

/-- Settles O35: the results are `State.addResult_cp` and `State.addResult_byte`. -/
theorem addWritesThePositionSums : Obligations.AddWritesThePositionSums := by
  unfold Obligations.AddWritesThePositionSums
  refine ⟨fun u => ⟨isCodePoint_iff u, isByte_iff u⟩, fun s hl => ⟨fun hin hfit => ?_, ?_⟩⟩
  · exact exec_of_result_ok rfl (State.addResult_cp hin hl) (by simpa using hfit)
  · rintro hin out rfl hfit
    exact exec_of_result_ok rfl (State.addResult_byte hin hl) hfit

/-- Settles O36: the result is `State.xorResult_ok`. -/
theorem xorWritesThePositionXors : Obligations.XorWritesThePositionXors := by
  unfold Obligations.XorWritesThePositionXors
  intro s m hl hin hfit
  have hcheck : s.inputOk (unitCheck m) := by cases m <;> exact hin
  exact exec_of_result_ok rfl (State.xorResult_ok hcheck hl) (by simpa using hfit)

/-- Settles O37: the input in range, padded, or with its leading markers off (`unpadUnits_replicate_append`). -/
theorem padAndUnpadHandleTheMarker : Obligations.PadAndUnpadHandleTheMarker := by
  unfold Obligations.PadAndUnpadHandleTheMarker
  refine ⟨fun s hin hfit => ?_, fun s n rest hin hfit hmark hhead => ?_⟩
  · have hpad : padUnits s.inUnits = if s.ilen.toNat % 2 = 1 then 2 :: s.inUnits else s.inUnits := by
      rw [padUnits, State.inUnits_length, Config.padMark]
    rw [← hpad]
    refine exec_of_result_ok rfl ?_ (by rwa [padUnits_length, State.inUnits_length])
    rw [outputResult, State.cpIn_ok hin, map_ok]
  · refine exec_of_result_ok rfl ?_ hfit
    rw [outputResult, State.cpIn_ok hin, map_ok, hmark]
    exact congrArg Except.ok (unpadUnits_replicate_append n hhead)

/-! ## UTF-8 both ways (spec R102, R103) -/

theorem utf8_singleton {c : Nat} (h : isScalar c = true) : utf8 [c] = .ok (utf8Char c) := by
  rw [utf8_cons, if_pos h, utf8_nil, map_ok, List.append_nil]

theorem utf8_append {v w a b : Units} (hv : utf8 v = .ok a) (hw : utf8 w = .ok b) : utf8 (v ++ w) = .ok (a ++ b) := by
  obtain ⟨hsv, rfl⟩ := utf8_eq_ok hv
  obtain ⟨hsw, rfl⟩ := utf8_eq_ok hw
  rw [(utf8_ok (List.forall_mem_append.mpr ⟨hsv, hsw⟩)).1, List.flatMap_append]

/-- Decoding takes encoding back, scalar value by scalar value. -/
theorem utf8DecOpt_of_utf8 {v b : Units} (h : utf8 v = .ok b) : utf8DecOpt b = some v := by
  obtain ⟨hs, rfl⟩ := utf8_eq_ok h
  clear h
  induction v with
  | nil => rw [List.flatMap_nil, utf8DecOpt]
  | cons c cs ih =>
    obtain ⟨hc, hcs⟩ := List.forall_mem_cons.mp hs
    rw [List.flatMap_cons, utf8DecOpt_utf8Char hc, ih hcs, Option.map_some]

/-- Decoding gives nothing but a vector that encodes to its argument, by induction on the bytes not yet read. -/
theorem utf8_of_utf8DecOpt {b v : Units} (h : utf8DecOpt b = some v) : utf8 v = .ok b := by
  by_cases hb : b = []
  · subst hb
    rw [utf8DecOpt] at h
    cases h
    exact utf8_nil
  · obtain ⟨c, t, v', hc, rfl, rfl, ht, hlt⟩ := utf8DecOpt_front h hb
    rw [utf8_cons, if_pos hc, utf8_of_utf8DecOpt ht, map_ok]
termination_by b.length

theorem utf8Dec_eq_ok_iff {b v : Units} : utf8Dec b = .ok v ↔ utf8 v = .ok b := by
  have hdec : utf8Dec b = .ok v ↔ utf8DecOpt b = some v := by
    rw [utf8Dec]
    cases utf8DecOpt b <;> simp
  exact hdec.trans ⟨utf8_of_utf8DecOpt, utf8DecOpt_of_utf8⟩

/-- Settles O58: the patterns are `utf8Char_eq`, the inverse is `utf8Dec_eq_ok_iff`. -/
theorem utf8DecodingInvertsEncoding : Obligations.Utf8DecodingInvertsEncoding := by
  unfold Obligations.Utf8DecodingInvertsEncoding
  refine ⟨fun c => ⟨isScalar_iff c, fun hc => ?_⟩, fun v w a b => ⟨utf8_nil, utf8_append, ?_⟩,
    fun b v => utf8Dec_eq_ok_iff, fun b hb => ?_⟩
  · rw [utf8_singleton hc, utf8Char_eq ((isScalar_iff c).mp hc).1]
    simp only [Nat.lt_succ_iff]
  · rintro ⟨c, hc, hf⟩
    exact utf8_error fun hall => absurd (hall c hc) (by simp [hf])
  · cases hd : utf8Dec b with
    | ok v => exact absurd (utf8Dec_eq_ok_iff.mp hd) (hb v)
    | error e => rw [utf8Dec_error hd]

/-! ## The laws of the keyed arithmetic (spec R104, R109) -/

/-- The two-byte forms of R99 are the UTF-8 of 128 to 255. -/
theorem expandSum_eq_utf8Char (x y : Nat) : expandSum x y = utf8Char ((x + y) % 256) := by
  have hlt : (x + y) % 256 < 256 := Nat.mod_lt _ (by decide)
  rw [expandSum]
  generalize (x + y) % 256 = v at hlt ⊢
  rw [utf8Char_eq (by omega)]
  by_cases hascii : v < 128
  · rw [if_pos hascii, if_pos hascii]
  · rw [if_neg hascii, if_neg hascii, if_pos (show v < 2048 by omega)]
    split_ifs <;> simp only [List.cons.injEq, and_true] <;> omega

/-- Settles O59: by `expandSum_eq_utf8Char`. -/
theorem byteAddIsUtf8OfTheSum : Obligations.ByteAddIsUtf8OfTheSum := by
  unfold Obligations.ByteAddIsUtf8OfTheSum
  intro a b _ _
  have hsum : isScalar ((a + b) % 256) = true := (isScalar_iff _).mpr (by omega)
  rw [addBytes_ok (by simp), utf8_singleton hsum, ← expandSum_eq_utf8Char]
  simp

section

variable {c d : Nat} (h : d / 128 = c / 128)

include h

/-- The bounds of the scalar values are multiples of 128. -/
theorem isScalar_of_div_128_eq (hc : isScalar c = true) : isScalar d = true := by
  rw [isScalar_iff] at hc ⊢
  omega

/-- The bounds between the lengths of R102 are multiples of 128. -/
theorem utf8Char_length_of_div_128_eq : (utf8Char d).length = (utf8Char c).length := by
  rw [utf8Char_length, utf8Char_length]
  split_ifs <;> omega

end

/-- Settles O60: the mask keeps the bits above the low seven (`xor_div_128`). -/
theorem hexMaskKeepsScalarsAndLength : Obligations.HexMaskKeepsScalarsAndLength := by
  unfold Obligations.HexMaskKeepsScalarsAndLength
  intro c m hc hm
  have hdiv : (c ^^^ m) / 128 = c / 128 := xor_div_128 (Nat.lt_succ_of_le hm)
  have hmasked := isScalar_of_div_128_eq hdiv hc
  exact ⟨hmasked, _, _, utf8_singleton hc, utf8_singleton hmasked, (utf8Char_length_of_div_128_eq hdiv).symm⟩

end Sys2Proof.Machine

/-! # DIGEST, ROUND and the round functions (spec R116, R118 to R121, R123, R124) -/

namespace Sys2Proof.Machine

/-! ## The digits of a digest (spec R118) -/

/-- A list that gives two elements for each of another's: which of the two stands at each position. -/
theorem flatMap_pair_eq_map_range {α β : Type} (l : List α) (x : α) (f g : α → β) :
    (l.flatMap fun a => [f a, g a]) =
      (List.range (2 * l.length)).map fun j => if j % 2 = 0 then f (l.getD (j / 2) x) else g (l.getD (j / 2) x) := by
  induction l with
  | nil => rfl
  | cons a l ih =>
    have hrange : List.range (2 * (a :: l).length) = 0 :: 1 :: (List.range (2 * l.length)).map (· + 2) := by
      rw [List.length_cons, Nat.mul_add, Nat.add_comm, List.range_add]
      simp [List.range_succ, Nat.add_comm]
    rw [hrange, List.flatMap_cons, ih]
    simp

/-- The digit of HEX(d) at each position: of the high nibble at an even one, of the low nibble at an odd one. -/
theorem hex_eq_map_range (d : Vector Byte 32) : hex d = (List.range 64).map fun j =>
    hexDigit (if j % 2 = 0 then (d.toList.getD (j / 2) 0).toNat / 16 else (d.toList.getD (j / 2) 0).toNat % 16) := by
  have hlow : ∀ b : Byte, b.toNat &&& 0xF = b.toNat % 16 := fun b => Nat.and_two_pow_sub_one_eq_mod b.toNat 4
  rw [hex, flatMap_pair_eq_map_range d.toList 0, Vector.length_toList]
  simp only [Nat.shiftRight_eq_div_pow, hlow, apply_ite hexDigit]

/-- A slice of a hex digest repeats with period 64 (spec R121 (d)). -/
theorem hexSlice_periodic {d : Vector Byte 32} {i n : Nat} {out : Units}
    (h : extractUnits (hex d) i n = .ok out) : ∀ j < n, out.getD j 0 = out.getD (j % 64) 0 := by
  obtain ⟨-, -, hdigit⟩ := hexSlice_spec h
  intro j hj
  rw [hdigit j hj, hdigit (j % 64) ((Nat.mod_le j 64).trans_lt hj), Nat.add_mod_mod]

/-! ## The round functions by position (spec R119, R120) -/

/-- A vector put together with the values of a function, by what each position gives. -/
theorem zipWith_map_range {α : Type} {f : Nat → Nat → α} {v : Units} {g : Nat → Nat} {r : Nat → α}
    (h : ∀ j < v.length, f (v.getD j 0) (g j) = r j) :
    List.zipWith f v ((List.range v.length).map g) = (List.range v.length).map r := by
  refine List.ext_getElem (by simp) fun j hj _ => ?_
  have hv : j < v.length := by simpa using hj
  simpa [hv] using h j hv

section

variable {dg : DigestFn} {item key : Units} {i : Nat} {e : Engine}

/-- ROUND_CP by the sum at each position (spec R119). -/
theorem roundCp_of_sums (hkey : key ≠ []) {sum : Nat → Nat} {bytes : Units}
    (hsum : ∀ j < item.length, item.getD j 0 + key.getD ((i + j) % key.length) 0 = sum j)
    (hutf : utf8 ((List.range item.length).map sum) = .ok bytes) : roundCp dg item i key e =
      .ok ((List.range item.length).map fun j => (hex (dg e (toBytes bytes))).getD ((i + j) % 64) 0) :=
  roundCp_ok dg item i hkey e ((congrArg utf8 (zipWith_map_range hsum)).trans hutf)

/-- ROUND_B by the bytes of the sum at each position (spec R120). -/
theorem roundB_of_sums (hkey : key ≠ []) {sum : Nat → Units}
    (hsum : ∀ j < item.length, expandSum (item.getD j 0) (key.getD ((i + j) % key.length) 0) = sum j) :
    roundB dg item i key e = .ok ((List.range item.length).map fun j =>
      (hex (dg e (toBytes ((List.range item.length).flatMap sum)))).getD ((i + j) % 64) 0) := by
  rw [roundB_ok dg item i hkey e, zipWith_map_range hsum, List.flatMap_def]

end

/-- Settles O41: the digits by `hex_eq_map_range`, the rounds by their sums, every result as a slice of hex digits. -/
theorem roundFunctionsGiveLengthMatchedHexDigits : Obligations.RoundFunctionsGiveLengthMatchedHexDigits := by
  unfold Obligations.RoundFunctionsGiveLengthMatchedHexDigits
  refine ⟨hex_eq_map_range, fun dg item key i e hkey => ⟨fun bytes hutf => ?_, ?_⟩, fun dg item key out i e h => ?_⟩
  · exact roundCp_of_sums hkey (fun _ _ => rfl) hutf
  · exact roundB_of_sums hkey fun _ _ => rfl
  · obtain ⟨hkey, d, hslice⟩ : key ≠ [] ∧ ∃ d, extractUnits (hex d) i item.length = .ok out :=
      h.elim roundCp_eq_ok roundB_eq_ok
    obtain ⟨hlen, hrange, -⟩ := hexSlice_spec hslice
    exact ⟨hlen, hrange, hexSlice_periodic hslice, hkey⟩

/-! ## DIGEST and ROUND -/

namespace State

variable {s : State} {e : Engine} {dg : DigestFn}

theorem digestResult_raw (he : s.engineSel = .ok e) (hin : s.inputOk isByte) :
    s.digestResult dg .raw = .ok ((dg e (toBytes s.inUnits)).toList.map (·.toNat)) := by
  rw [digestResult, he, bind_ok, bytesIn_ok hin, bind_ok]

theorem digestResult_rendered (he : s.engineSel = .ok e) (hin : s.inputOk isByte) :
    s.digestResult dg .rendered = .ok (hex (dg e (toBytes s.inUnits))) := by
  rw [digestResult, he, bind_ok, bytesIn_ok hin, bind_ok]

/-- ROUND in code-point mode, by the words of IBUF and of the slot (spec R119, R124). -/
theorem roundResult_cp_ok (he : s.engineSel = .ok e) (hk : s.slotOk s.keySel.toNat) (hin : s.inputOk isScalar)
    (hpos : 0 < (s.keyLenOf s.keySel.toNat).toNat) {bytes : Units}
    (hutf : utf8 ((List.range s.ilen.toNat).map fun j => (s.ibufWord j).toNat +
      (s.keyWord s.keySel.toNat ((s.arg0.toNat + j) % (s.keyLenOf s.keySel.toNat).toNat)).toNat) = .ok bytes) :
    s.roundResult dg .cp = .ok ((List.range s.ilen.toNat).map fun j =>
      (hex (dg e (toBytes bytes))).getD ((s.arg0.toNat + j) % 64) 0) := by
  rw [roundResult_cp he hk, cpIn_ok hin, bind_ok]
  rw [← s.inUnits_length] at hutf ⊢
  exact roundCp_of_sums (keyCps_ne_nil hpos)
    (fun j hj => inUnits_add_keyCps hpos (hj.trans_eq s.inUnits_length)) hutf

/-- ROUND in byte mode, by the words of IBUF and the bytes of the key string (spec R120, R124). -/
theorem roundResult_byte_ok (he : s.engineSel = .ok e) (hk : s.slotOk s.keySel.toNat) (hin : s.inputOk isByte)
    (hpos : 0 < (s.keyLenOf s.keySel.toNat).toNat) {kb : Units} (hutf : utf8 (s.keyCps s.keySel.toNat) = .ok kb) :
    s.roundResult dg .byte = .ok ((List.range s.ilen.toNat).map fun j =>
      (hex (dg e (toBytes ((List.range s.ilen.toNat).flatMap fun j =>
        expandSum (s.ibufWord j).toNat (kb.getD ((s.arg0.toNat + j) % kb.length) 0))))).getD
          ((s.arg0.toNat + j) % 64) 0) := by
  rw [roundResult_byte he hk, bytesIn_ok hin, bind_ok, keyBytes, hutf, bind_ok, ← s.inUnits_length]
  exact roundB_of_sums (utf8_ne_nil hutf (keyCps_ne_nil hpos)) fun j hj => by
    rw [inUnits_getD s (hj.trans_eq s.inUnits_length)]

end State

/-- The numbers above 3 name no engine (spec R10, R27, R116). -/
theorem engineOfNumber_eq_none {n : Nat} (h : 3 < n) : engineOfNumber n = none := by
  rw [← Option.not_isSome_iff_eq_none, Option.isSome_iff_exists, engineOfNumber_isSome]
  exact Nat.not_le.mpr h

/-- Settles O39: the results are `State.digestResult_raw` and `State.digestResult_rendered`. -/
theorem digestWritesTheDigestOfTheInput : Obligations.DigestWritesTheDigestOfTheInput := by
  unfold Obligations.DigestWritesTheDigestOfTheInput
  refine ⟨⟨rfl, rfl, rfl, rfl, fun n => engineOfNumber_eq_none⟩,
    fun s e he hin => ⟨fun hfit => ?_, fun hfit => ?_⟩⟩
  · exact exec_of_result_ok rfl (State.digestResult_raw (State.engineSel_ok he) hin) (by simpa using hfit)
  · have hres := State.digestResult_rendered (dg := Config.digest) (State.engineSel_ok he) hin
    rw [hex_eq_map_range] at hres
    exact exec_of_result_ok rfl hres (by simpa using hfit)

/-- Settles O40: the results are `State.roundResult_cp_ok` and `State.roundResult_byte_ok`. -/
theorem roundWritesTheKeyedMask : Obligations.RoundWritesTheKeyedMask := by
  unfold Obligations.RoundWritesTheKeyedMask
  intro s e he hk hfit hpos
  have hsel := State.engineSel_ok he
  refine ⟨fun bytes hin hutf => ?_, fun kb hin hutf => ?_⟩
  · exact exec_of_result_ok rfl (State.roundResult_cp_ok hsel hk hin hpos hutf) (by simpa using hfit)
  · exact exec_of_result_ok rfl (State.roundResult_byte_ok hsel hk hin hpos hutf) (by simpa using hfit)

end Sys2Proof.Machine

/-! # The codec (spec R127 to R132) -/

namespace Sys2Proof.Machine

/-- B256DEC of a text with a first character: its index, and the bytes of the rest (spec R128). -/
theorem b256DecUnits_cons_eq_ok {t cs b : Units} {c : Nat} : b256DecUnits t (c :: cs) = .ok b ↔
    ∃ x bs, t.idxOf? c = some x ∧ b256DecUnits t cs = .ok bs ∧ x :: bs = b := by
  rw [b256DecUnits]
  cases t.idxOf? c with
  | none => simp
  | some x => simp [map_eq_ok]

/-- R129 (a): the entries being distinct, the first index of the table's entry for a byte is that byte. -/
theorem b256DecUnits_b256EncUnits {t b : Units} (ht : tableOk t) (hb : ∀ x ∈ b, x < 256) :
    b256DecUnits t (b256EncUnits t b) = .ok b := by
  induction b with
  | nil => rfl
  | cons x bs ih =>
    obtain ⟨hx, hbs⟩ := List.forall_mem_cons.mp hb
    exact b256DecUnits_cons_eq_ok.mpr ⟨x, bs, idxOf?_getD ht hx, ih hbs, rfl⟩

/-- R129 (b): whatever the table, the entry at the index a look-up finds is the character looked up. -/
theorem b256EncUnits_of_b256DecUnits {t u b : Units} (h : b256DecUnits t u = .ok b) : b256EncUnits t b = u := by
  induction u generalizing b with
  | nil => cases h; rfl
  | cons c cs ih =>
    obtain ⟨x, bs, hx, hbs, rfl⟩ := b256DecUnits_cons_eq_ok.mp h
    exact congrArg₂ List.cons (getD_of_idxOf? hx) (ih hbs)

/-- Settles O43: (a) and (b) are `b256DecUnits_b256EncUnits` and `b256EncUnits_of_b256DecUnits`. -/
theorem codecIsABijection : Obligations.CodecIsABijection := by
  unfold Obligations.CodecIsABijection
  exact fun t ht => ⟨fun b => b256DecUnits_b256EncUnits ht,
    fun u b h => ⟨b256EncUnits_of_b256DecUnits h, b256DecUnits_length h⟩, b256EncUnits_length t⟩

namespace State

variable {s : State}

/-- B256_ENC on byte input that fits (spec R131). -/
theorem exec_b256Enc_ok (hin : s.inputOk isByte) (hfit : s.ilen.toNat ≤ s.params.obufDepth) :
    exec .b256Enc s = .next (s.afterOutput (b256EncUnits s.params.b256 s.inUnits)) := by
  refine exec_of_result_ok rfl ?_ ?_
  · rw [outputResult, bytesIn_ok hin, map_ok]
  · rwa [b256EncUnits_length, inUnits_length]

/-- B256_DEC on the characters of a byte vector that fits (spec R132). -/
theorem exec_b256Dec_ok {b : Units} (ht : tableOk s.params.b256) (hin : s.ilen.toNat ≤ s.params.ibufDepth)
    (hfit : s.ilen.toNat ≤ s.params.obufDepth) (hb : ∀ x ∈ b, x < 256)
    (henc : s.inUnits = b256EncUnits s.params.b256 b) : exec .b256Dec s = .next (s.afterOutput b) := by
  refine exec_of_result_ok rfl ?_ ?_
  · rw [outputResult, inVec_ok hin, bind_ok, henc, b256DecUnits_b256EncUnits ht hb]
  · rwa [← b256EncUnits_length s.params.b256 b, ← henc, inUnits_length]

end State

/-- Settles O42: the commands' results are `State.exec_b256Enc_ok` and `State.exec_b256Dec_ok`. -/
theorem codecCommandsMapThroughTheTable : Obligations.CodecCommandsMapThroughTheTable := by
  unfold Obligations.CodecCommandsMapThroughTheTable
  refine ⟨fun s hin hfit => State.exec_b256Enc_ok hin hfit, fun s b hlegal hin hfit hb henc => ?_⟩
  obtain ⟨-, -, -, -, -, htable⟩ := hlegal
  exact State.exec_b256Dec_ok htable hin hfit hb henc

end Sys2Proof.Machine

/-! # The balanced ciphers (spec R101, R106, R107, R133 to R143, R200, R202) -/

namespace Sys2Proof.Machine

/-! ## Splitting, padding and masking (spec R100, R101, R106) -/

theorem forall_mem_splitUnits {P : Nat → Prop} {v : Units} (h : ∀ c ∈ v, P c) :
    (∀ c ∈ (splitUnits v).1, P c) ∧ ∀ c ∈ (splitUnits v).2, P c :=
  List.forall_mem_append.mp ((splitUnits_append v).symm ▸ h)

theorem splitUnits_length_eq {v : Units} (h : v.length % 2 = 0) :
    (splitUnits v).1.length = (splitUnits v).2.length := by
  obtain ⟨hfst, hsnd⟩ := splitUnits_length v
  omega

theorem padUnits_length_even (d : Units) : (padUnits d).length % 2 = 0 := by
  rw [padUnits_length]
  omega

theorem forall_mem_padUnits {P : Nat → Prop} {d : Units} (hmark : P Config.padMark) (h : ∀ c ∈ d, P c) :
    ∀ c ∈ padUnits d, P c := by
  rw [padUnits]
  split_ifs
  · exact List.forall_mem_cons.mpr ⟨hmark, h⟩
  · exact h

/-- A vector masked by XOR, by position (spec R100). -/
theorem zipWith_xor_eq_map_range {a m : Units} (h : a.length = m.length) :
    List.zipWith (· ^^^ ·) a m = (List.range a.length).map fun j => a.getD j 0 ^^^ m.getD j 0 := by
  refine List.ext_getElem (by simp [h]) fun j hj _ => ?_
  obtain ⟨ha, hm⟩ : j < a.length ∧ j < m.length := by simpa using hj
  simp [ha, hm]

/-- A mask changes the UTF-8 of a vector, not its length. -/
theorem utf8_length_zipWith_xor {a m : Units} (hlen : a.length = m.length) (hm : ∀ c ∈ m, c < 0x80) :
    ((List.zipWith (· ^^^ ·) a m).flatMap utf8Char).length = (a.flatMap utf8Char).length := by
  induction a generalizing m with
  | nil => rfl
  | cons x a ih =>
    cases m with
    | nil => cases hlen
    | cons y m =>
      obtain ⟨hy, hm⟩ := List.forall_mem_cons.mp hm
      rw [List.zipWith_cons_cons, List.flatMap_cons, List.flatMap_cons, List.length_append, List.length_append,
        utf8Char_length_of_div_128_eq (xor_div_128 hy), ih (Nat.succ.inj hlen) hm]

/-! ## The rounds (spec R135, R136) -/

section

variable {f : Nat → Units → Except ErrCode Units} {n : Nat}

theorem balEncRounds_succ_ok {p : Units × Units} {l r m : Units} (h : balEncRounds f n p = .ok (l, r))
    (hm : f n r = .ok m) (hlen : l.length = m.length) :
    balEncRounds f (n + 1) p = .ok (r, List.zipWith (· ^^^ ·) l m) := by
  simp only [balEncRounds, h, bind_ok, hm, xorUnits_ok hlen]

theorem balDecRounds_succ_ok {b a m : Units} (hm : f n b = .ok m) (hlen : a.length = m.length) :
    balDecRounds f (n + 1) (b, a) = balDecRounds f n (List.zipWith (· ^^^ ·) a m, b) := by
  rw [balDecRounds, hm, bind_ok, xorUnits_ok hlen, bind_ok]

/-- Halves of unequal lengths fail in the first decrypt round that has its mask (spec R136). -/
theorem balDecRounds_succ_lengthMismatch {b a m : Units} (hm : f n b = .ok m) (hne : a.length ≠ m.length) :
    balDecRounds f (n + 1) (b, a) = .error .lengthMismatch := by
  rw [balDecRounds, hm, bind_ok, xorUnits_ne hne, bind_error]

/-! ## The cores from their rounds (spec R135, R136) -/

theorem balCoreEnc_nil : balCoreEnc f n [] = .ok [] := rfl

theorem balCoreEnc_eq_map {d : Units} (h : d ≠ []) :
    balCoreEnc f n d = (balEncRounds f n (splitUnits (padUnits d))).map fun q => q.1 ++ q.2 := by
  rw [balCoreEnc, if_neg (by simpa using h)]
  cases balEncRounds f n (splitUnits (padUnits d)) <;> rfl

theorem balCoreDec_eq_map (u : Units) :
    balCoreDec f n u = (balDecRounds f n (splitUnits u)).map fun q => unpadUnits (q.1 ++ q.2) := by
  rw [balCoreDec]
  cases balDecRounds f n (splitUnits u) <;> rfl

/-- The output of the encryption is that of its rounds, put together. -/
theorem balEncRounds_of_balCoreEnc {d c : Units} (hd : d ≠ []) (h : balCoreEnc f n d = .ok c) :
    ∃ l r, balEncRounds f n (splitUnits (padUnits d)) = .ok (l, r) ∧ l ++ r = c := by
  rw [balCoreEnc_eq_map hd] at h
  obtain ⟨⟨l, r⟩, hrounds, hc⟩ := map_eq_ok.mp h
  exact ⟨l, r, hrounds, hc⟩

/-- The encryption raises what the first failing round raises (spec R135). -/
theorem balCoreEnc_error {d l r : Units} {i : Nat} {e : ErrCode} (hd : d ≠ []) (hi : i < n)
    (h : balEncRounds f i (splitUnits (padUnits d)) = .ok (l, r)) (he : f i r = .error e) :
    balCoreEnc f n d = .error e := by
  rw [balCoreEnc_eq_map hd, balEncRounds_error hi h he, map_error]

/-- The decryption raises what the first failing round raises, the rounds counted down (spec R136). -/
theorem balCoreDec_error {u b a : Units} {i : Nat} {e : ErrCode} (hi : i < n)
    (h : balDecRounds (fun k => f (k + i + 1)) (n - i - 1) (splitUnits u) = .ok (b, a)) (he : f i b = .error e) :
    balCoreDec f n u = .error e := by
  rw [balCoreDec_eq_map, balDecRounds_error hi h he, map_error]

/-- The longer half of an odd vector has no mask that fits: the first decrypt round is the last (spec R136). -/
theorem balCoreDec_lengthMismatch (hf : IsMask f) {u m : Units} (hodd : u.length % 2 = 1) (hn : 0 < n)
    (hm : f (n - 1) (splitUnits u).1 = .ok m) : balCoreDec f n u = .error .lengthMismatch := by
  have hne : (splitUnits u).2.length ≠ m.length := by
    obtain ⟨hfst, hsnd⟩ := splitUnits_length u
    rw [hf.length hm]
    omega
  have hround := balDecRounds_succ_lengthMismatch hm hne
  rw [Nat.sub_add_cancel hn, Prod.mk.eta] at hround
  rw [balCoreDec_eq_map, hround, map_error]

section

variable (hf : IsMask f) {P : Nat → Prop} (hP : ∀ c m, P c → m < 0x80 → P (c ^^^ m))

include hf hP

/-- The encryption keeps the padded length, and the range that XOR with a mask keeps (spec R138). -/
theorem balCoreEnc_keeps {d c : Units} (hmark : P Config.padMark) (hd : ∀ x ∈ d, P x)
    (h : balCoreEnc f n d = .ok c) : c.length = d.length + d.length % 2 ∧ ∀ x ∈ c, P x := by
  by_cases hnil : d = []
  · subst hnil
    cases h
    simp
  · obtain ⟨l, r, hrounds, rfl⟩ := balEncRounds_of_balCoreEnc hnil h
    have hhalves := splitUnits_length_eq (padUnits_length_even d)
    obtain ⟨hl, hr, hPl, hPr⟩ :=
      balEncRounds_keeps hf hP hhalves (forall_mem_splitUnits (forall_mem_padUnits hmark hd)) hrounds
    refine ⟨?_, List.forall_mem_append.mpr ⟨hPl, hPr⟩⟩
    rw [List.length_append, hl, hr, (splitUnits_length _).1, padUnits_length]
    omega

section

variable (ht : ∀ i < n, ∀ x : Units, (∀ c ∈ x, P c) → ∃ m, f i x = .ok m)

include ht

/-- The encryption answers where every round function in the range does. -/
theorem balCoreEnc_total {d : Units} (hmark : P Config.padMark) (hd : ∀ x ∈ d, P x) :
    ∃ c, balCoreEnc f n d = .ok c := by
  by_cases hnil : d = []
  · exact ⟨[], by rw [hnil, balCoreEnc_nil]⟩
  · obtain ⟨q, hq⟩ := balEncRounds_total hf hP n ht (splitUnits_length_eq (padUnits_length_even d))
      (forall_mem_splitUnits (forall_mem_padUnits hmark hd))
    exact ⟨_, by rw [balCoreEnc_eq_map hnil, hq, map_ok]⟩

/-- So does the decryption of an even vector, which may lose leading markers (spec R136, R107). -/
theorem balCoreDec_total {u : Units} (heven : u.length % 2 = 0) (hu : ∀ x ∈ u, P x) :
    ∃ p, balCoreDec f n u = .ok p ∧ p.length ≤ u.length ∧ ∀ x ∈ p, P x := by
  obtain ⟨⟨b, a⟩, hq, hb, ha, hPb, hPa⟩ :=
    balDecRounds_total hf hP n ht (splitUnits_length_eq heven) (forall_mem_splitUnits hu)
  have hsuffix : unpadUnits (b ++ a) <:+ b ++ a := List.dropWhile_suffix _
  refine ⟨unpadUnits (b ++ a), by rw [balCoreDec_eq_map, hq, map_ok], hsuffix.length_le.trans ?_,
    fun x hx => List.forall_mem_append.mpr ⟨hPb, hPa⟩ x (hsuffix.mem hx)⟩
  obtain ⟨hfst, -⟩ := splitUnits_length u
  rw [List.length_append]
  dsimp only at hb ha
  omega

end

end

/-! ## The round trip (spec R137, R200) -/

/-- Decryption gives the plaintext without its leading markers. The round function has to answer on the empty half only
for the empty plaintext, of which encryption runs no round. -/
theorem balCoreDec_of_balCoreEnc (hf : IsMask f) {d c : Units} (hnil : d = [] → ∀ i < n, ∃ m, f i [] = .ok m)
    (h : balCoreEnc f n d = .ok c) : balCoreDec f n c = .ok (unpadUnits d) := by
  by_cases hd : d = []
  · subst hd
    cases h
    -- The empty halves lie in every range, the empty one included.
    have hempty : ∀ i < n, ∀ x : Units, (∀ c ∈ x, False) → ∃ m, f i x = .ok m := fun i hi x hx => by
      rw [List.eq_nil_iff_forall_not_mem.mpr hx]
      exact hnil rfl i hi
    obtain ⟨p, hp, hlen, -⟩ := balCoreDec_total hf (fun _ _ hc _ => hc) hempty (u := []) rfl nofun
    rw [hp, List.eq_nil_of_length_eq_zero (Nat.le_zero.mp hlen)]
    rfl
  · obtain ⟨l, r, hrounds, rfl⟩ := balEncRounds_of_balCoreEnc hd h
    have hhalves := splitUnits_length_eq (padUnits_length_even d)
    obtain ⟨hl, hr, -⟩ := balEncRounds_keeps hf (P := fun _ => True) (fun _ _ _ _ => trivial) hhalves
      ⟨fun _ _ => trivial, fun _ _ => trivial⟩ hrounds
    rw [balCoreDec_eq_map, splitUnits_of_append (.inl (hl.trans hr.symm)), balDecRounds_of_balEncRounds hrounds, map_ok,
      splitUnits_append, unpadUnits_padUnits]

/-! ## The number of bytes (spec R138, R140) -/

/-- The rounds swap halves and mask them: the bytes of both together stay as many. -/
theorem utf8_length_balEncRounds (hf : IsMask f) {p q : Units × Units} (h : balEncRounds f n p = .ok q) :
    ((q.1 ++ q.2).flatMap utf8Char).length = ((p.1 ++ p.2).flatMap utf8Char).length := by
  induction n generalizing q with
  | zero => cases h; rfl
  | succ n ih =>
    obtain ⟨l, r, m, hrounds, hm, hlen, rfl⟩ := balEncRounds_succ h
    rw [← ih hrounds]
    simp only [List.flatMap_append, List.length_append]
    rw [utf8_length_zipWith_xor hlen (hf.small hm), Nat.add_comm]

theorem utf8_length_balCoreEnc (hf : IsMask f) {d c : Units} (h : balCoreEnc f n d = .ok c) :
    (c.flatMap utf8Char).length = ((padUnits d).flatMap utf8Char).length := by
  by_cases hd : d = []
  · subst hd
    cases h
    rfl
  · obtain ⟨l, r, hrounds, rfl⟩ := balEncRounds_of_balCoreEnc hd h
    rw [utf8_length_balEncRounds hf hrounds, splitUnits_append]

end

/-- Settles O48: by `balCoreDec_of_balCoreEnc`; a plaintext that does not begin with the marker has none to lose. -/
theorem balancedDecryptInvertsEncrypt : Obligations.BalancedDecryptInvertsEncrypt := by
  unfold Obligations.BalancedDecryptInvertsEncrypt
  intro dg keyf n d c hkeys henc
  have hnil : d = [] → ∀ i < n, ∃ m, roundCp dg [] i (keyf i) .sha256 = .ok m :=
    fun hd i hi => roundCp_scalar dg (hkeys hd i hi) .sha256 nofun
  have hdec := balCoreDec_of_balCoreEnc (isMask_roundCp dg keyf .sha256) hnil henc
  exact ⟨hdec, fun hhead => hdec.trans (congrArg Except.ok (unpadUnits_of_head hhead))⟩

/-- Settles O49: a mask keeps the bits above the low seven, and so scalar values and their byte counts. -/
theorem balancedOutputStaysEncodable : Obligations.BalancedOutputStaysEncodable := by
  unfold Obligations.BalancedOutputStaysEncodable
  intro dg keyf n d c hd henc
  have hf := isMask_roundCp dg keyf .sha256
  have hmark : isScalar Config.padMark = true := by decide
  obtain ⟨hlen, hc⟩ := balCoreEnc_keeps hf (P := fun x => isScalar x = true)
    (fun c m hc hm => isScalar_of_div_128_eq (xor_div_128 hm) hc) hmark hd henc
  exact ⟨hc, hlen, _, _, (utf8_ok hc).1, (utf8_ok (forall_mem_padUnits hmark hd)).1, utf8_length_balCoreEnc hf henc⟩

/-! ## The commands from their cores (spec R133, R134, R139, R141 to R143) -/

theorem exec_balEnc (s : State) : exec .balEnc s = s.finishOutput (s.feistelEnc .bal
    (fun i x => roundCp Config.digest x i (s.keyCps 0) .sha256) s.rounds.toNat) := rfl

theorem exec_mkEnc (s : State) : exec .mkEnc s = s.finishOutput (s.feistelEnc .mk
    (fun i x => roundCp Config.digest x i (s.keyCps i) .sha256) s.nkeys.toNat) := rfl

theorem exec_balDec (s : State) : exec .balDec s = s.finishOutput (s.feistelDec .bal
    (fun i x => roundCp Config.digest x i (s.keyCps 0) .sha256) s.rounds.toNat) := rfl

theorem exec_mkDec (s : State) : exec .mkDec s = s.finishOutput (s.feistelDec .mk
    (fun i x => roundCp Config.digest x i (s.keyCps i) .sha256) s.nkeys.toNat) := rfl

namespace State

variable {s : State} {v : Variant}

theorem inUnits_ne_nil (h : s.ilen.toNat ≠ 0) : s.inUnits ≠ [] := by
  rw [← List.length_pos_iff, inUnits_length]
  exact Nat.pos_of_ne_zero h

/-- Input in a range is in every wider one. -/
theorem inputOk.mono {p q : Nat → Bool} (h : s.inputOk p) (hpq : ∀ u, p u = true → q u = true) : s.inputOk q :=
  ⟨h.1, fun j hj => hpq _ (h.2 j hj)⟩

section

variable {f : Nat → Units → Except ErrCode Units} {n : Nat} (hv : s.latched v)

include hv

theorem feistelEnc_of_cpIn_error {e : ErrCode} (h : s.cpIn = .error e) : s.feistelEnc v f n = .error e := by
  rw [feistelEnc, require_ok hv, bind_ok, h, bind_error]

theorem feistelEnc_of_inputOk (h : s.inputOk isScalar) :
    s.feistelEnc v f n = (balCoreEnc f n s.inUnits >>= utf8) := by
  rw [feistelEnc, require_ok hv, bind_ok, cpIn_ok h, bind_ok]

theorem feistelDec_of_bytesIn_error {e : ErrCode} (h : s.bytesIn = .error e) : s.feistelDec v f n = .error e := by
  rw [feistelDec, require_ok hv, bind_ok, h, bind_error]

/-- The checks of the decrypt commands on bytes, in order (spec R141, R143). -/
theorem feistelDec_of_inputOk (h : s.inputOk isByte) : s.feistelDec v f n =
    if s.ilen.toNat = 0 then .ok [] else if s.ilen.toNat % 2 = 1 then .error .ctOdd
    else utf8Dec s.inUnits >>= balCoreDec f n := by
  rw [feistelDec, require_ok hv, bind_ok, bytesIn_ok h, bind_ok, inUnits_length]

theorem feistelDec_of_text {u : Units} (h : s.inputOk isByte) (hpos : s.ilen.toNat ≠ 0)
    (heven : s.ilen.toNat % 2 = 0) (hu : utf8 u = .ok s.inUnits) : s.feistelDec v f n = balCoreDec f n u := by
  rw [feistelDec_of_inputOk hv h, if_neg hpos, if_neg (by omega), utf8Dec_eq_ok_iff.mpr hu, bind_ok]

end

end State

/-- Settles O44: the core's steps by `balEncRounds_succ_ok`, the commands by `State.feistelEnc_of_inputOk`. -/
theorem balancedEncryptionWritesTheCoreOutput : Obligations.BalancedEncryptionWritesTheCoreOutput := by
  unfold Obligations.BalancedEncryptionWritesTheCoreOutput
  refine ⟨fun f n d l r => ⟨rfl, rfl, rfl, fun hd hrounds => ?_, rfl, fun p m hp hm hlen => ?_⟩,
    fun s c b hin hutf hfit => ⟨fun hv hcore => ?_, fun hv hcore => ?_⟩, fun s v enc keyf n hv hcmd => ?_⟩
  · rw [balCoreEnc_eq_map hd, hrounds, map_ok]
  · rw [balEncRounds_succ_ok hp hm hlen, zipWith_xor_eq_map_range hlen]
  · rw [exec_balEnc, State.feistelEnc_of_inputOk hv hin, hcore, bind_ok, hutf, State.finishOutput_ok hfit]
  · rw [exec_mkEnc, State.feistelEnc_of_inputOk hv hin, hcore, bind_ok, hutf, State.finishOutput_ok hfit]
  · have hexec : exec enc s = s.finishOutput (s.feistelEnc v
        (fun i x => roundCp Config.digest x i (keyf i) .sha256) n) := by
      rcases hcmd with ⟨rfl, rfl, rfl, rfl⟩ | ⟨rfl, rfl, rfl, rfl⟩
      · exact exec_balEnc s
      · exact exec_mkEnc s
    rw [hexec]
    refine ⟨fun hcap => ?_, fun hfit hbad => ?_, fun hin hpos i hi l r hrounds hkey hsum => ?_,
      fun hin c b hcore hutf hfull => ?_⟩
    · rw [State.feistelEnc_of_cpIn_error hv (State.checkedIn_capacity hcap), State.finishOutput_error]
    · rw [State.feistelEnc_of_cpIn_error hv (State.checkedIn_badUnit hfit hbad), State.finishOutput_error]
    · rw [State.feistelEnc_of_inputOk hv hin, balCoreEnc_error (State.inUnits_ne_nil hpos) hi hrounds
        (roundCp_unencodable Config.digest hkey .sha256 hsum), bind_error, State.finishOutput_error]
    · rw [State.feistelEnc_of_inputOk hv hin, hcore, bind_ok, hutf, State.finishOutput_full hfull]

/-- Settles O46: the core's steps by `balDecRounds_succ_ok`, the commands by `State.feistelDec_of_text`. -/
theorem balancedDecryptionWritesTheCoreOutput : Obligations.BalancedDecryptionWritesTheCoreOutput := by
  unfold Obligations.BalancedDecryptionWritesTheCoreOutput
  refine ⟨fun f n u b a => ⟨fun hrounds => ?_, rfl, fun m hm hlen => ?_⟩,
    fun s u p hin hpos heven hu hfit => ⟨fun hv hcore => ?_, fun hv hcore => ?_⟩, fun s hilen => ?_⟩
  · rw [balCoreDec_eq_map, splitUnits, hrounds, map_ok]
    rfl
  · rw [balDecRounds_succ_ok hm hlen, zipWith_xor_eq_map_range hlen]
  · rw [exec_balDec, State.feistelDec_of_text hv hin hpos heven hu, hcore, State.finishOutput_ok hfit]
  · rw [exec_mkDec, State.feistelDec_of_text hv hin hpos heven hu, hcore, State.finishOutput_ok hfit]
  · have hzero : s.ilen.toNat = 0 := by rw [hilen]; rfl
    have hin : s.inputOk isByte := ⟨by omega, fun j hj => by omega⟩
    refine ⟨fun hv => ?_, fun hv => ?_⟩
    · rw [exec_balDec, State.feistelDec_of_inputOk hv hin, if_pos hzero, State.finishOutput_ok (Nat.zero_le _)]
    · rw [exec_mkDec, State.feistelDec_of_inputOk hv hin, if_pos hzero, State.finishOutput_ok (Nat.zero_le _)]

/-! ## Bad ciphertext (spec R141, R143, R177) -/

/-- Bytes that are the UTF-8 of no vector end decoding with 0x33 (spec R103). -/
theorem utf8Dec_eq_error {b : Units} (h : ∀ u, utf8 u ≠ .ok b) : utf8Dec b = .error .ctBadUtf8 := by
  cases hd : utf8Dec b with
  | ok u => exact absurd (utf8Dec_eq_ok_iff.mp hd) (h u)
  | error e => rw [utf8Dec_error hd]

/-- The first round function of the decryption answers where the sums of the left half are scalar values. -/
theorem roundCp_splitUnits_fst (dg : DigestFn) {u key : Units} {i : Nat} (hkey : key ≠ []) (e : Engine)
    (h : ∀ j < u.length / 2, isScalar (u.getD j 0 + key.getD ((i + j) % key.length) 0) = true) :
    ∃ m, roundCp dg (splitUnits u).1 i key e = .ok m := by
  refine roundCp_scalar dg hkey e fun j hj => ?_
  rw [(splitUnits_length u).1] at hj
  have hget : (splitUnits u).1.getD j 0 = u.getD j 0 := by simp [splitUnits, hj]
  rw [hget]
  exact h j hj

/-- Settles O47: each check by the branch of the command it falls in, the rounds by `balCoreDec_error` and
`balCoreDec_lengthMismatch`. -/
theorem balancedDecryptionRejectsBadCiphertext : Obligations.BalancedDecryptionRejectsBadCiphertext := by
  unfold Obligations.BalancedDecryptionRejectsBadCiphertext
  intro s v dec keyf n hv hcmd
  have hexec : exec dec s = s.finishOutput (s.feistelDec v
      (fun i x => roundCp Config.digest x i (keyf i) .sha256) n) := by
    rcases hcmd with ⟨rfl, rfl, rfl, rfl⟩ | ⟨rfl, rfl, rfl, rfl⟩
    · exact exec_balDec s
    · exact exec_mkDec s
  rw [hexec]
  refine ⟨fun hcap => ?_, fun hfit ⟨j, hj, hbad⟩ => ?_, fun hin => ⟨fun hodd => ?_, fun heven hnone => ?_,
    fun heven hpos u hu => ?_⟩⟩
  · rw [State.feistelDec_of_bytesIn_error hv (State.checkedIn_capacity hcap), State.finishOutput_error]
  · rw [State.feistelDec_of_bytesIn_error hv (State.checkedIn_badUnit hfit ⟨j, hj, isByte_eq_false hbad⟩),
      State.finishOutput_error]
  · rw [State.feistelDec_of_inputOk hv hin, if_neg (by omega), if_pos hodd, State.finishOutput_error]
  · have hpos : s.ilen.toNat ≠ 0 := fun hzero =>
      hnone [] (by rw [List.eq_nil_of_length_eq_zero (s.inUnits_length.trans hzero), utf8_nil])
    rw [State.feistelDec_of_inputOk hv hin, if_neg hpos, if_neg (by omega), utf8Dec_eq_error hnone, bind_error,
      State.finishOutput_error]
  · rw [State.feistelDec_of_text hv hin hpos heven hu]
    refine ⟨fun i hi b a hrounds hkey hsum => ?_, fun hodd hn hkey hsums => ?_, fun p hcore hfull => ?_⟩
    · rw [balCoreDec_error hi hrounds (roundCp_unencodable Config.digest hkey .sha256 hsum), State.finishOutput_error]
    · obtain ⟨m, hm⟩ := roundCp_splitUnits_fst Config.digest hkey .sha256 hsums
      rw [balCoreDec_lengthMismatch (isMask_roundCp Config.digest keyf .sha256) hodd hn hm, State.finishOutput_error]
    · rw [hcore, State.finishOutput_full hfull]

/-! ## ASCII text under ASCII keys (spec R138, R202) -/

theorem xor_lt_80 : ∀ c m, c < 0x80 → m < 0x80 → c ^^^ m < 0x80 := fun _ _ => xor_lt_pow (n := 7)

namespace State

section

variable {s : State} {v : Variant} {f : Nat → Units → Except ErrCode Units} {n : Nat} (hv : s.latched v)
  (hin : s.inputOk fun u => decide (u < 0x80)) (hf : IsMask f)
  (ht : ∀ i < n, ∀ x : Units, (∀ c ∈ x, c < 0x80) → ∃ m, f i x = .ok m)

include hin in
theorem inUnits_ascii : ∀ x ∈ s.inUnits, x < 0x80 := fun x hx => of_decide_eq_true (hin.forall_mem x hx)

include hv hin hf ht

/-- Where the round function answers on ASCII text, the encryption of ASCII text gives ASCII text. -/
theorem feistelEnc_ascii : ∃ c, s.feistelEnc v f n = .ok c ∧ c.length = s.ilen.toNat + s.ilen.toNat % 2 ∧
    ∀ x ∈ c, x < 0x80 := by
  have hmark : Config.padMark < 0x80 := by decide
  obtain ⟨c, hc⟩ := balCoreEnc_total hf xor_lt_80 ht hmark (inUnits_ascii hin)
  obtain ⟨hlen, hascii⟩ := balCoreEnc_keeps hf xor_lt_80 hmark (inUnits_ascii hin) hc
  have hscalar := hin.mono fun u hu => isScalar_of_ascii (of_decide_eq_true hu)
  refine ⟨c, ?_, s.inUnits_length ▸ hlen, hascii⟩
  rw [feistelEnc_of_inputOk hv hscalar, hc, bind_ok, utf8_ascii hascii]

/-- So does the decryption of an even number of ASCII bytes. -/
theorem feistelDec_ascii (heven : s.ilen.toNat % 2 = 0) : ∃ p, s.feistelDec v f n = .ok p ∧
    p.length ≤ s.ilen.toNat ∧ ∀ x ∈ p, x < 0x80 := by
  have hbyte : s.inputOk isByte := hin.mono fun u hu => (isByte_iff u).mpr (by have := of_decide_eq_true hu; omega)
  by_cases hzero : s.ilen.toNat = 0
  · exact ⟨[], by rw [feistelDec_of_inputOk hv hbyte, if_pos hzero], Nat.zero_le _, nofun⟩
  · rw [feistelDec_of_text hv hbyte hzero heven (utf8_ascii (inUnits_ascii hin)), ← s.inUnits_length]
    exact balCoreDec_total hf xor_lt_80 ht (s.inUnits_length.symm ▸ heven) (inUnits_ascii hin)

/-- A pair of commands that end with these results completes where OBUF has room. -/
theorem exec_ascii {enc dec : Instr} (henc : exec enc s = s.finishOutput (s.feistelEnc v f n))
    (hdec : exec dec s = s.finishOutput (s.feistelDec v f n)) :
    (s.ilen.toNat + s.ilen.toNat % 2 ≤ s.params.obufDepth → ∃ c : Units, exec enc s = .next (s.afterOutput c) ∧
      c.length = s.ilen.toNat + s.ilen.toNat % 2 ∧ ∀ x ∈ c, x < 0x80) ∧
    (s.ilen.toNat % 2 = 0 → s.ilen.toNat ≤ s.params.obufDepth → ∃ p : Units,
      exec dec s = .next (s.afterOutput p) ∧ p.length ≤ s.ilen.toNat ∧ ∀ x ∈ p, x < 0x80) := by
  refine ⟨fun hfit => ?_, fun heven hfit => ?_⟩
  · obtain ⟨c, hc, hlen, hascii⟩ := feistelEnc_ascii hv hin hf ht
    exact ⟨c, by rw [henc, hc, finishOutput_ok (hlen.trans_le hfit)], hlen, hascii⟩
  · obtain ⟨p, hp, hlen, hascii⟩ := feistelDec_ascii hv hin hf ht heven
    exact ⟨p, by rw [hdec, hp, finishOutput_ok (hlen.trans hfit)], hlen, hascii⟩

end

/-- The checks of CONFIGURE still pass while the configuration is latched (spec R47, R86). -/
theorem Good.checkConfig_of_latched {s : State} {v : Variant} (h : s.Good) (hv : s.latched v) :
    s.checkConfig v = .ok () := by
  obtain ⟨hvalid, rfl⟩ := hv
  exact h.configured hvalid

end State

/-- Settles O45: the keys are not empty, as CONFIGURE found them (R144); the rest is `State.exec_ascii`. -/
theorem asciiTextAlwaysCompletes : Obligations.AsciiTextAlwaysCompletes := by
  unfold Obligations.AsciiTextAlwaysCompletes
  intro s hs hin
  refine ⟨fun ⟨hv, hascii⟩ => ?_, fun ⟨hv, hascii⟩ => ?_⟩
  · obtain ⟨hbal, -, -⟩ := State.checkConfig_eq_ok (hs.checkConfig_of_latched hv)
    obtain ⟨hkey, -⟩ := hbal rfl
    exact State.exec_ascii hv hin (isMask_roundCp Config.digest (fun _ => s.keyCps 0) .sha256)
      (fun i _ _ hx => roundCp_ascii Config.digest i .sha256 hkey.cps_ne_nil hascii hx) (exec_balEnc s) (exec_balDec s)
  · obtain ⟨-, hmk, -⟩ := State.checkConfig_eq_ok (hs.checkConfig_of_latched hv)
    obtain ⟨-, -, hkeys⟩ := hmk rfl
    exact State.exec_ascii hv hin (isMask_roundCp Config.digest s.keyCps .sha256)
      (fun i hi _ hx => roundCp_ascii Config.digest i .sha256 (hkeys i hi).cps_ne_nil (hascii i hi) hx) (exec_mkEnc s)
      (exec_mkDec s)

end Sys2Proof.Machine

/-! # The format-preserving cipher (spec R146 to R159) -/

namespace Sys2Proof.Machine

/-! ## The rounds (spec R147, R150, R151) -/

theorem xor_lt_256 : ∀ c m, c < 256 → m < 0x80 → c ^^^ m < 256 :=
  fun _ _ hc hm => xor_lt_pow (n := 8) hc (by omega)

theorem extendIf_of_length_le {l r : Units} (h : l.length ≤ r.length + 1) :
    extendIf (r.length < l.length) r = r ++ List.replicate (l.length - r.length) 0 := by
  rw [extendIf]
  split_ifs with hlt
  · rw [show l.length - r.length = 1 by omega]
    rfl
  · rw [Nat.sub_eq_zero_of_le (Nat.not_lt.mp hlt), List.replicate_zero, List.append_nil]

/-- A round more swaps what the parity of the round count chooses between. -/
theorem ite_succ_mod_two {α : Type} (n : Nat) (a b : α) :
    (if (n + 1) % 2 = 0 then a else b) = if n % 2 = 0 then b else a := by
  by_cases h : n % 2 = 0
  · rw [if_neg (by omega), if_pos h]
  · rw [if_pos (by omega), if_neg h]

section

variable {f : Nat → Units → Except ErrCode Units} {n : Nat}

theorem fpeEncRounds_succ {p q : Units × Units} (h : fpeEncRounds f n p = .ok q) :
    fpeEncRounds f (n + 1) p = fpeEncRound f n q := by rw [fpeEncRounds, h, bind_ok]

theorem fpeDecRounds_succ {p q : Units × Units} (h : fpeDecRound f n p = .ok q) :
    fpeDecRounds f (n + 1) p = fpeDecRounds f n q := by rw [fpeDecRounds, h, bind_ok]

/-! ## The cores from their rounds (spec R147, R150) -/

theorem fpeCoreEnc_nil : fpeCoreEnc f n [] = .ok [] := rfl

theorem fpeCoreDec_nil : fpeCoreDec f n [] = .ok [] := rfl

theorem fpeCoreEnc_eq_map {v : Units} (h : v ≠ []) :
    fpeCoreEnc f n v = (fpeEncRounds f n (splitUnits v)).map fun q => q.1 ++ q.2 := by
  rw [fpeCoreEnc, if_neg (by simpa using h)]
  cases fpeEncRounds f n (splitUnits v) <;> rfl

theorem fpeCoreDec_eq_map {v : Units} (h : v ≠ []) :
    fpeCoreDec f n v = (fpeDecRounds f n (fpeDecSplit n v)).map fun q => q.1 ++ q.2 := by
  rw [fpeCoreDec, if_neg (by simpa using h)]
  cases fpeDecRounds f n (fpeDecSplit n v) <;> rfl

/-- The length of the left half after `n` rounds on `len` units (spec R148), where decryption splits. -/
def fpeDecHalf (n len : Nat) : Nat := if n % 2 = 0 then len / 2 else len - len / 2

/-- For odd `n` and `len` the left half is the longer one, as R150 has it. -/
theorem fpeDecHalf_eq (n len : Nat) : fpeDecHalf n len = if n % 2 = 1 ∧ len % 2 = 1 then len / 2 + 1 else len / 2 := by
  rw [fpeDecHalf]
  split_ifs <;> omega

theorem fpeDecSplit_eq (n : Nat) (v : Units) :
    fpeDecSplit n v = (v.take (fpeDecHalf n v.length), v.drop (fpeDecHalf n v.length)) := by
  rw [fpeDecSplit, fpeDecHalf_eq]
  split_ifs <;> rfl

theorem fpeDecSplit_append (n : Nat) (v : Units) : (fpeDecSplit n v).1 ++ (fpeDecSplit n v).2 = v := by
  rw [fpeDecSplit_eq]
  exact List.take_append_drop _ _

theorem fpeDecSplit_length (n : Nat) (v : Units) :
    (fpeDecSplit n v).1.length = fpeDecHalf n v.length ∧
      (fpeDecSplit n v).2.length = v.length - fpeDecHalf n v.length := by
  rw [fpeDecSplit_eq, List.length_take, List.length_drop, fpeDecHalf]
  split_ifs <;> omega

/-- The decryption splits where the encryption joined. -/
theorem fpeDecSplit_of_append {l r : Units} (h : l.length = fpeDecHalf n (l.length + r.length)) :
    fpeDecSplit n (l ++ r) = (l, r) := by
  rw [fpeDecSplit_eq, List.length_append, ← h, List.take_left, List.drop_left]

/-! ## The cores are total and inverse (spec R149, R151) -/

section

variable (hf : IsMask f) (ht : ∀ i x, ∃ m, f i x = .ok m)

include hf ht

/-- The encrypt rounds answer on halves whose lengths differ by at most one, the decrypt rounds take them back, and the
halves swap their lengths in each round (spec R148). -/
theorem fpeEncRounds_spec (n : Nat) {p : Units × Units} (h1 : p.1.length ≤ p.2.length + 1)
    (h2 : p.2.length ≤ p.1.length + 1) :
    ∃ q, fpeEncRounds f n p = .ok q ∧ fpeDecRounds f n q = .ok p ∧
      q.1.length = (if n % 2 = 0 then p.1 else p.2).length ∧ q.2.length = (if n % 2 = 0 then p.2 else p.1).length ∧
      ((∀ x ∈ p.1 ++ p.2, x < 256) → ∀ x ∈ q.1 ++ q.2, x < 256) := by
  induction n with
  | zero => exact ⟨p, rfl, rfl, rfl, rfl, id⟩
  | succ n ih =>
    obtain ⟨⟨l, r⟩, henc, hdec, hl, hr, hbytes⟩ := ih
    dsimp only at hl hr hbytes
    have hnear : l.length ≤ r.length + 1 ∧ r.length ≤ l.length + 1 := by
      split_ifs at hl hr <;> omega
    obtain ⟨nR, hround, hlen, hback, hkeep⟩ := fpeEncRound_spec hf ht xor_lt_256 n hnear.1 hnear.2
    rw [ite_succ_mod_two, ite_succ_mod_two]
    refine ⟨(r, nR), (fpeEncRounds_succ henc).trans hround, (fpeDecRounds_succ hback).trans hdec, hr, hlen.trans hl,
      fun hp => ?_⟩
    obtain ⟨hbl, hbr⟩ := List.forall_mem_append.mp (hbytes hp)
    exact List.forall_mem_append.mpr ⟨hbr, hkeep hbl⟩

/-- So do the decrypt rounds, and the encrypt rounds take them back. -/
theorem fpeDecRounds_spec (n : Nat) {q : Units × Units} (h1 : q.1.length ≤ q.2.length + 1)
    (h2 : q.2.length ≤ q.1.length + 1) :
    ∃ p, fpeDecRounds f n q = .ok p ∧ fpeEncRounds f n p = .ok q ∧
      p.1.length = (if n % 2 = 0 then q.1 else q.2).length ∧ p.2.length = (if n % 2 = 0 then q.2 else q.1).length ∧
      ((∀ x ∈ q.1 ++ q.2, x < 256) → ∀ x ∈ p.1 ++ p.2, x < 256) := by
  induction n generalizing q with
  | zero => exact ⟨q, rfl, rfl, rfl, rfl, id⟩
  | succ n ih =>
    obtain ⟨l, r⟩ := q
    dsimp only at h1 h2
    obtain ⟨t, hround, hlen, hback, hkeep⟩ := fpeDecRound_spec hf ht xor_lt_256 n h1 h2
    obtain ⟨p, hdec, henc, hl, hr, hbytes⟩ := ih (q := (t, l)) (by dsimp only; omega) (by dsimp only; omega)
    rw [ite_succ_mod_two, ite_succ_mod_two]
    refine ⟨p, (fpeDecRounds_succ hround).trans hdec, (fpeEncRounds_succ henc).trans hback, hl.trans ?_, hr.trans ?_,
      fun hq => hbytes ?_⟩
    · rw [apply_ite List.length, apply_ite List.length, hlen]
    · rw [apply_ite List.length, apply_ite List.length, hlen]
    · obtain ⟨hbl, hbr⟩ := List.forall_mem_append.mp hq
      exact List.forall_mem_append.mpr ⟨hkeep hbr, hbl⟩

/-- FPE_CORE_ENC answers with a vector of the same length, of bytes for bytes, which FPE_CORE_DEC takes back. -/
theorem fpeCoreEnc_spec (n : Nat) (v : Units) :
    ∃ c, fpeCoreEnc f n v = .ok c ∧ fpeCoreDec f n c = .ok v ∧ c.length = v.length ∧
      ((∀ x ∈ v, x < 256) → ∀ x ∈ c, x < 256) := by
  by_cases hv : v = []
  · subst hv
    exact ⟨[], fpeCoreEnc_nil, fpeCoreDec_nil, rfl, id⟩
  obtain ⟨hl, hr⟩ := splitUnits_length v
  obtain ⟨⟨l, r⟩, henc, hdec, hql, hqr, hbytes⟩ := fpeEncRounds_spec hf ht n (p := splitUnits v) (by omega) (by omega)
  dsimp only at hql hqr hbytes
  have hlen : (l ++ r).length = v.length := by
    rw [List.length_append]
    split_ifs at hql hqr <;> omega
  have hhalf : l.length = fpeDecHalf n (l.length + r.length) := by
    rw [← List.length_append, hlen, fpeDecHalf]
    split_ifs at hql ⊢ <;> omega
  have hne : l ++ r ≠ [] := fun hnil => hv (List.eq_nil_of_length_eq_zero (by rw [← hlen, hnil]; rfl))
  refine ⟨l ++ r, by rw [fpeCoreEnc_eq_map hv, henc, map_ok], ?_, hlen,
    fun hb => hbytes ((splitUnits_append v).symm ▸ hb)⟩
  rw [fpeCoreDec_eq_map hne, fpeDecSplit_of_append hhalf, hdec, map_ok, splitUnits_append]

/-- FPE_CORE_DEC answers likewise, and FPE_CORE_ENC takes it back. -/
theorem fpeCoreDec_spec (n : Nat) (v : Units) :
    ∃ p, fpeCoreDec f n v = .ok p ∧ fpeCoreEnc f n p = .ok v ∧ p.length = v.length ∧
      ((∀ x ∈ v, x < 256) → ∀ x ∈ p, x < 256) := by
  by_cases hv : v = []
  · subst hv
    exact ⟨[], fpeCoreDec_nil, fpeCoreEnc_nil, rfl, id⟩
  obtain ⟨hl, hr⟩ := fpeDecSplit_length n v
  rw [fpeDecHalf] at hl hr
  obtain ⟨⟨l, r⟩, hdec, henc, hpl, hpr, hbytes⟩ :=
    fpeDecRounds_spec hf ht n (q := fpeDecSplit n v) (by split_ifs at hl hr <;> omega) (by split_ifs at hl hr <;> omega)
  dsimp only at hpl hpr hbytes
  have hhalves : l.length = v.length / 2 ∧ r.length = v.length - v.length / 2 := by
    split_ifs at hl hr hpl hpr <;> omega
  have hlen : (l ++ r).length = v.length := by
    rw [List.length_append]
    omega
  have hne : l ++ r ≠ [] := fun hnil => hv (List.eq_nil_of_length_eq_zero (by rw [← hlen, hnil]; rfl))
  refine ⟨l ++ r, by rw [fpeCoreDec_eq_map hv, hdec, map_ok], ?_, hlen,
    fun hb => hbytes ((fpeDecSplit_append n v).symm ▸ hb)⟩
  rw [fpeCoreEnc_eq_map hne, splitUnits_of_append (by omega), henc, map_ok, fpeDecSplit_append]

end

end

/-- ROUND_B under a non-empty key always answers, as the cores want their round function (spec R122, R149). -/
theorem roundB_total (dg : DigestFn) {kb : Units} (hkb : kb ≠ []) (e : Engine) (i : Nat) (x : Units) :
    ∃ m, roundB dg x i kb e = .ok m := ⟨_, roundB_ok dg x i hkb e⟩

/-- Settles O50: the cores' steps are their definitions; the new right half is `fpeEncRound_eq`'s, which the decrypt round
takes back by `fpeEncRound_spec`. -/
theorem fpeRoundIsInvertedByItsMirror : Obligations.FpeRoundIsInvertedByItsMirror := by
  unfold Obligations.FpeRoundIsInvertedByItsMirror
  refine ⟨fun f n v l r p q => ⟨fpeCoreEnc_nil, fpeCoreDec_nil, fun hv hrounds => ?_, rfl, fpeEncRounds_succ,
    fun hv h hh hrounds => ?_, rfl, fpeDecRounds_succ⟩, fun dg kb e i l r hkb hl hr => ?_⟩
  · rw [fpeCoreEnc_eq_map hv, splitUnits, hrounds, map_ok]
  · rw [← fpeDecHalf_eq] at hh
    rw [fpeCoreDec_eq_map hv, fpeDecSplit_eq, ← hh, hrounds, map_ok]
  · have hf := isMask_roundB dg kb e
    obtain ⟨rnd, hrnd⟩ := roundB_total dg hkb e i (extendIf (r.length < l.length) r)
    obtain ⟨nR, henc, hlen, hdec, -⟩ := fpeEncRound_spec hf (roundB_total dg hkb e) xor_lt_256 i hl hr
    have hext := extendIf_of_length_le hl
    have hmask : l.length ≤ rnd.length := by
      rw [hf.length hrnd, hext, List.length_append, List.length_replicate]
      omega
    have hnR : nR = List.zipWith (· ^^^ ·) l (rnd.take l.length) := by
      rw [fpeEncRound_eq hf hl hr hrnd] at henc
      cases henc
      rfl
    refine ⟨rnd, nR, hext ▸ hrnd, hlen, fun j hj => ?_, henc, hdec⟩
    rw [hnR, zipWith_xor_eq_map_range (List.length_take_of_le hmask).symm]
    simp [hj]

/-- Settles O51: by `fpeCoreEnc_spec`, and `fpeEncRounds_spec` for the halves before a round. -/
theorem fpeEncryptionPreservesLengthAndBytes : Obligations.FpeEncryptionPreservesLengthAndBytes := by
  unfold Obligations.FpeEncryptionPreservesLengthAndBytes
  intro dg kb e n p hkb hp
  have hf := isMask_roundB dg kb e
  have ht := roundB_total dg hkb e
  obtain ⟨c, henc, -, hlen, hbytes⟩ := fpeCoreEnc_spec hf ht n p
  obtain ⟨hsl, hsr⟩ := splitUnits_length p
  obtain ⟨⟨l, r⟩, hrounds, -, hl, hr, -⟩ := fpeEncRounds_spec hf ht n (p := splitUnits p) (by omega) (by omega)
  refine ⟨⟨c, henc, hlen, hbytes hp⟩, l, r, hrounds, fun heven => ?_, fun hodd => ?_⟩
  · rw [if_pos heven] at hl hr
    exact ⟨hl.trans hsl, hr.trans hsr⟩
  · rw [if_neg (by omega)] at hl hr
    exact ⟨hl.trans hsr, hr.trans hsl⟩

/-- Settles O52: by `fpeCoreEnc_spec` and `fpeCoreDec_spec`. -/
theorem fpeCoresAreInverse : Obligations.FpeCoresAreInverse := by
  unfold Obligations.FpeCoresAreInverse
  intro dg kb e n v hkb _
  have hf := isMask_roundB dg kb e
  have ht := roundB_total dg hkb e
  obtain ⟨c, henc, hdec, -⟩ := fpeCoreEnc_spec hf ht n v
  obtain ⟨p, hdec', henc', -⟩ := fpeCoreDec_spec hf ht n v
  exact ⟨⟨c, henc, hdec⟩, p, hdec', henc'⟩

/-! ## The commands' inputs (spec R82, R83, R146, R154) -/

namespace State

variable {s : State} {f : Form}

/-- A latched FPE configuration has a key string that is not empty, and an engine (spec R92, R146). -/
theorem Good.fpe_configured (hs : s.Good) (hv : s.latched .fpe) :
    ∃ kb e, utf8 (s.keyCps 0) = .ok kb ∧ engineOfNumber s.engine.toNat = some e ∧ kb ≠ [] := by
  obtain ⟨-, -, hfpe⟩ := checkConfig_eq_ok (hs.checkConfig_of_latched hv)
  obtain ⟨hengine, hkey, -⟩ := hfpe rfl
  obtain ⟨-, -, hscalar⟩ := id hkey
  obtain ⟨e, he⟩ := engineOfNumber_isSome.mpr hengine
  have hkb := (utf8_ok (forall_keyCps.mpr hscalar)).1
  exact ⟨_, e, hkb, he, utf8_ne_nil hkb hkey.cps_ne_nil⟩

theorem Good.table_ok (hs : s.Good) : tableOk s.params.b256 := by
  obtain ⟨-, -, -, -, -, htable⟩ := hs.params
  exact htable

section

variable {kb : Units} {e : Engine} (hkb : utf8 (s.keyCps 0) = .ok kb)
  (he : engineOfNumber s.engine.toNat = some e) (dg : DigestFn)

include hkb he

theorem fpeEncrypt_eq (p : Units) :
    s.fpeEncrypt dg p = fpeCoreEnc (fun i x => roundB dg x i kb e) s.rounds.toNat p := by
  rw [fpeEncrypt, fpeRound_eq hkb he]

theorem fpeDecrypt_eq (c : Units) :
    s.fpeDecrypt dg c = fpeCoreDec (fun i x => roundB dg x i kb e) s.rounds.toNat c := by
  rw [fpeDecrypt, fpeRound_eq hkb he]

end

section

variable (hs : s.Good) (hv : s.latched .fpe) (dg : DigestFn)

include hs hv

/-- Under a latched configuration the byte core raises nothing, and keeps the length (spec R149). -/
theorem Good.fpeEncrypt_total (p : Units) : ∃ c, s.fpeEncrypt dg p = .ok c ∧ c.length = p.length := by
  obtain ⟨kb, e, hkb, he, hne⟩ := hs.fpe_configured hv
  obtain ⟨c, hc, -, hlen, -⟩ := fpeCoreEnc_spec (isMask_roundB dg kb e) (roundB_total dg hne e) s.rounds.toNat p
  exact ⟨c, (fpeEncrypt_eq hkb he dg p).trans hc, hlen⟩

theorem Good.fpeDecrypt_total (c : Units) : ∃ p, s.fpeDecrypt dg c = .ok p ∧ p.length = c.length := by
  obtain ⟨kb, e, hkb, he, hne⟩ := hs.fpe_configured hv
  obtain ⟨p, hp, -, hlen, -⟩ := fpeCoreDec_spec (isMask_roundB dg kb e) (roundB_total dg hne e) s.rounds.toNat c
  exact ⟨p, (fpeDecrypt_eq hkb he dg c).trans hp, hlen⟩

end

theorem renderCipher_length (f : Form) (c : Units) : (s.renderCipher f c).length = c.length := by
  cases f with
  | raw => rfl
  | rendered => exact b256EncUnits_length _ c

theorem cipherIn_raw_ok (hin : s.inputOk isByte) : s.cipherIn .raw = .ok s.inUnits := bytesIn_ok hin

theorem cipherIn_rendered_ok {c : Units} (ht : tableOk s.params.b256) (hfit : s.ilen.toNat ≤ s.params.ibufDepth)
    (hc : ∀ x ∈ c, x < 256) (henc : s.inUnits = b256EncUnits s.params.b256 c) : s.cipherIn .rendered = .ok c := by
  rw [cipherIn, inVec_ok hfit, bind_ok, henc, b256DecUnits_b256EncUnits ht hc]

theorem cipherIn_rendered_present (hfit : s.ilen.toNat ≤ s.params.ibufDepth)
    (h : ∀ j < s.ilen.toNat, (s.ibufWord j).toNat ∈ s.params.b256) :
    ∃ c, s.cipherIn .rendered = .ok c ∧ c.length = s.ilen.toNat := by
  obtain ⟨c, hc⟩ := b256DecUnits_present (t := s.params.b256) (v := s.inUnits) fun x hx => by
    obtain ⟨j, hj, rfl⟩ := mem_inUnits.mp hx
    exact h j hj
  exact ⟨c, by rw [cipherIn, inVec_ok hfit, bind_ok, hc], (b256DecUnits_length hc).trans s.inUnits_length⟩

theorem cipherIn_capacity (h : s.params.ibufDepth < s.ilen.toNat) (f : Form) :
    s.cipherIn f = .error .capacityIn := by
  cases f with
  | raw => exact checkedIn_capacity h
  | rendered => rw [cipherIn, inVec_error h, bind_error]

theorem bytesIn_badUnit (hfit : s.ilen.toNat ≤ s.params.ibufDepth)
    (h : ∃ j < s.ilen.toNat, 0xFF < (s.ibufWord j).toNat) : s.bytesIn = .error .badUnit := by
  obtain ⟨j, hj, hbad⟩ := h
  exact checkedIn_badUnit hfit ⟨j, hj, isByte_eq_false hbad⟩

theorem cipherIn_rendered_badChar (hfit : s.ilen.toNat ≤ s.params.ibufDepth)
    (h : ∃ j < s.ilen.toNat, (s.ibufWord j).toNat ∉ s.params.b256) : s.cipherIn .rendered = .error .ctBadChar := by
  obtain ⟨j, hj, hbad⟩ := h
  rw [cipherIn, inVec_ok hfit, bind_ok, b256DecUnits_absent ⟨_, mem_inUnits.mpr ⟨j, hj, rfl⟩, hbad⟩]

/-! ## The commands from their inputs (spec R156 to R159) -/

section

variable (hv : s.latched .fpe)

include hv

theorem exec_fpeEnc_of_bytesIn_error {x : ErrCode} (h : s.bytesIn = .error x) (f : Form) :
    exec (.fpeEnc f) s = .next (s.afterOutputError x) :=
  exec_of_result_error rfl (by rw [outputResult, fpeEncResult, require_ok hv, bind_ok, h, bind_error])

theorem exec_fpeEncStr_of_cpIn_error {x : ErrCode} (h : s.cpIn = .error x) (f : Form) :
    exec (.fpeEncStr f) s = .next (s.afterOutputError x) :=
  exec_of_result_error rfl (by rw [outputResult, fpeEncStrResult, require_ok hv, bind_ok, h, bind_error])

theorem exec_fpeDec_of_cipherIn_error {x : ErrCode} (h : s.cipherIn f = .error x) :
    exec (.fpeDec f) s = .next (s.afterOutputError x) ∧ exec (.fpeDecStr f) s = .next (s.afterOutputError x) :=
  ⟨exec_of_result_error rfl (by rw [outputResult, fpeDecResult, require_ok hv, bind_ok, h, bind_error]),
    exec_of_result_error rfl (by rw [outputResult, fpeDecStrResult, require_ok hv, bind_ok, h, bind_error])⟩

theorem exec_fpeEnc {c : Units} (hin : s.inputOk isByte) (hc : s.fpeEncrypt Config.digest s.inUnits = .ok c)
    (f : Form) : exec (.fpeEnc f) s = s.finishOutput (.ok (s.renderCipher f c)) := by
  rw [exec_output rfl, outputResult, fpeEncResult, require_ok hv, bind_ok, bytesIn_ok hin, bind_ok, hc, bind_ok]

theorem exec_fpeEncStr {p c : Units} (hin : s.inputOk isScalar) (hp : utf8 s.inUnits = .ok p)
    (hc : s.fpeEncrypt Config.digest p = .ok c) (f : Form) :
    exec (.fpeEncStr f) s = s.finishOutput (.ok (s.renderCipher f c)) := by
  rw [exec_output rfl, outputResult, fpeEncStrResult, require_ok hv, bind_ok, cpIn_ok hin, bind_ok, hp, bind_ok, hc,
    bind_ok]

theorem exec_fpeDec {c p : Units} (hc : s.cipherIn f = .ok c) (hp : s.fpeDecrypt Config.digest c = .ok p) :
    exec (.fpeDec f) s = s.finishOutput (.ok p) := by
  rw [exec_output rfl, outputResult, fpeDecResult, require_ok hv, bind_ok, hc, bind_ok, hp]

theorem exec_fpeDecStr {c p : Units} (hc : s.cipherIn f = .ok c) (hp : s.fpeDecrypt Config.digest c = .ok p) :
    exec (.fpeDecStr f) s = s.finishOutput (utf8Dec p) := by
  rw [exec_output rfl, outputResult, fpeDecStrResult, require_ok hv, bind_ok, hc, bind_ok, hp, bind_ok]

end

end State

/-- Settles O53: the inputs are those of the lemmas above, the core is total and keeps the length. -/
theorem fpeByteCommandsComplete : Obligations.FpeByteCommandsComplete := by
  unfold Obligations.FpeByteCommandsComplete
  refine ⟨fun s hs hv hfit => ?_, fun s f hv => ⟨fun hcap => ?_, fun hfit => ⟨fun hbad => ?_, fun hbad => ?_⟩,
    fun hs hfull => ⟨fun hin => ⟨?_, ?_⟩, fun hin hchars => ?_⟩⟩⟩
  · obtain ⟨kb, e, hkb, he, -⟩ := hs.fpe_configured hv
    refine ⟨kb, e, hkb, he, fun hin => ?_, fun hin => ?_, fun c hc henc hin => ?_⟩
    · obtain ⟨c, hc, hlen⟩ := hs.fpeEncrypt_total hv Config.digest s.inUnits
      rw [s.inUnits_length] at hlen
      have hexec (f : Form) : exec (.fpeEnc f) s = .next (s.afterOutput (s.renderCipher f c)) := by
        rw [State.exec_fpeEnc hv hin hc, State.finishOutput_ok (by rwa [State.renderCipher_length, hlen])]
      exact ⟨c, hlen, (State.fpeEncrypt_eq hkb he ..).symm.trans hc, hexec .raw, hexec .rendered⟩
    · obtain ⟨p, hp, hlen⟩ := hs.fpeDecrypt_total hv Config.digest s.inUnits
      rw [s.inUnits_length] at hlen
      refine ⟨p, hlen, (State.fpeDecrypt_eq hkb he ..).symm.trans hp, ?_⟩
      rw [State.exec_fpeDec hv (State.cipherIn_raw_ok hin) hp, State.finishOutput_ok (hlen.trans_le hfit)]
    · obtain ⟨p, hp, hlen⟩ := hs.fpeDecrypt_total hv Config.digest c
      have hlen : p.length = s.ilen.toNat := by rw [hlen, ← s.inUnits_length, henc, List.length_map]
      refine ⟨p, hlen, (State.fpeDecrypt_eq hkb he ..).symm.trans hp, ?_⟩
      rw [State.exec_fpeDec hv (State.cipherIn_rendered_ok hs.table_ok hin hc henc) hp,
        State.finishOutput_ok (hlen.trans_le hfit)]
  · exact ⟨State.exec_fpeEnc_of_bytesIn_error hv (State.checkedIn_capacity hcap) f,
      (State.exec_fpeDec_of_cipherIn_error hv (State.cipherIn_capacity hcap f)).1⟩
  · have hin := State.bytesIn_badUnit hfit hbad
    exact ⟨State.exec_fpeEnc_of_bytesIn_error hv hin f,
      (State.exec_fpeDec_of_cipherIn_error (f := .raw) hv hin).1⟩
  · exact (State.exec_fpeDec_of_cipherIn_error hv (State.cipherIn_rendered_badChar hfit hbad)).1
  · obtain ⟨c, hc, hlen⟩ := hs.fpeEncrypt_total hv Config.digest s.inUnits
    rw [State.exec_fpeEnc hv hin hc, State.finishOutput_full]
    rwa [State.renderCipher_length, hlen, State.inUnits_length]
  · obtain ⟨p, hp, hlen⟩ := hs.fpeDecrypt_total hv Config.digest s.inUnits
    rw [State.exec_fpeDec hv (State.cipherIn_raw_ok hin) hp, State.finishOutput_full]
    rwa [hlen, State.inUnits_length]
  · obtain ⟨c, hc, hclen⟩ := State.cipherIn_rendered_present hin hchars
    obtain ⟨p, hp, hlen⟩ := hs.fpeDecrypt_total hv Config.digest c
    rw [State.exec_fpeDec hv hc hp, State.finishOutput_full]
    rwa [hlen, hclen]

/-- Settles O54: by the same inputs and core, with `utf8` before encryption and `utf8Dec` after decryption. -/
theorem fpeStringCommandsWrapTheByteCore : Obligations.FpeStringCommandsWrapTheByteCore := by
  unfold Obligations.FpeStringCommandsWrapTheByteCore
  refine ⟨fun s kb e hs hv hkb he => ⟨fun p f hin hp hfull => ?_, fun p hin hp hfit => ?_,
    fun f c p hinput hdec => ?_⟩, fun s f hv => ⟨fun hcap => ⟨?_, ?_⟩, fun hfit => ⟨fun hbad => ?_, fun hbad => ?_,
      fun hbad => ?_⟩⟩⟩
  · obtain ⟨c, hc, hlen⟩ := hs.fpeEncrypt_total hv Config.digest p
    rw [State.exec_fpeEncStr hv hin hp hc, State.finishOutput_full]
    rwa [State.renderCipher_length, hlen]
  · obtain ⟨c, hc, hlen⟩ := hs.fpeEncrypt_total hv Config.digest p
    have hexec (f : Form) : exec (.fpeEncStr f) s = .next (s.afterOutput (s.renderCipher f c)) := by
      rw [State.exec_fpeEncStr hv hin hp hc, State.finishOutput_ok (by rwa [State.renderCipher_length, hlen])]
    exact ⟨c, hlen, (State.fpeEncrypt_eq hkb he ..).symm.trans hc, hexec .raw, hexec .rendered⟩
  · have hc : s.cipherIn f = .ok c := by
      rcases hinput with ⟨rfl, hin, rfl⟩ | ⟨rfl, hin, hbytes, henc⟩
      · exact State.cipherIn_raw_ok hin
      · exact State.cipherIn_rendered_ok hs.table_ok hin hbytes henc
    rw [State.exec_fpeDecStr hv hc ((State.fpeDecrypt_eq hkb he ..).trans hdec)]
    refine ⟨fun v hutf hfit => ?_, fun v hutf hfull => ?_, fun hnone => ?_⟩
    · rw [utf8Dec_eq_ok_iff.mpr hutf, State.finishOutput_ok hfit]
    · rw [utf8Dec_eq_ok_iff.mpr hutf, State.finishOutput_full hfull]
    · rw [utf8Dec_eq_error hnone, State.finishOutput_error]
  · exact State.exec_fpeEncStr_of_cpIn_error hv (State.checkedIn_capacity hcap) f
  · exact (State.exec_fpeDec_of_cipherIn_error hv (State.cipherIn_capacity hcap f)).2
  · exact State.exec_fpeEncStr_of_cpIn_error hv (State.checkedIn_badUnit hfit hbad) f
  · exact (State.exec_fpeDec_of_cipherIn_error (f := .raw) hv (State.bytesIn_badUnit hfit hbad)).2
  · exact (State.exec_fpeDec_of_cipherIn_error hv (State.cipherIn_rendered_badChar hfit hbad)).2

end Sys2Proof.Machine

/-! # The number commands (spec R162 to R169) -/

namespace Sys2Proof.Machine

/-! ## Big-endian buffers (spec R162) -/

theorem beBytes_getD {n x j : Nat} (hj : j < n) :
    (beBytes n x).getD j 0 = x / 2 ^ (8 * (n - 1 - j)) % 256 := by
  rw [List.getD_eq_getElem _ _ (by simpa using hj)]
  simp [beBytes, Nat.shiftRight_eq_div_pow, Nat.and_two_pow_sub_one_eq_mod _ 8]

theorem unBe_eq_sum (b : Units) :
    unBe b = ((List.range b.length).map fun j => b.getD j 0 * 2 ^ (8 * (b.length - 1 - j))).sum := by
  induction b using List.reverseRecOn with
  | nil => rfl
  | append_singleton b x ih =>
    have hshift : ((List.range b.length).map fun j => (b ++ [x]).getD j 0 * 2 ^ (8 * (b.length + 1 - 1 - j))) =
        (List.range b.length).map fun j => b.getD j 0 * 2 ^ (8 * (b.length - 1 - j)) * 256 := by
      refine List.map_congr_left fun j hj => ?_
      have hj := List.mem_range.mp hj
      rw [List.getD_append _ _ _ _ hj, show 8 * (b.length + 1 - 1 - j) = 8 * (b.length - 1 - j) + 8 by omega, pow_add,
        ← mul_assoc]
      rfl
    rw [unBe_append, ih, List.length_append, List.length_singleton, List.range_succ, List.map_append, List.sum_append,
      hshift, List.sum_map_mul_right]
    simp

theorem unBe_lt {b : Units} (h : ∀ x ∈ b, x < 256) : unBe b < 2 ^ (8 * b.length) := by
  induction b using List.reverseRecOn with
  | nil => exact Nat.one_pos
  | append_singleton b x ih =>
    obtain ⟨hb, hx⟩ := List.forall_mem_append.mp h
    have hx := hx x (List.mem_singleton_self x)
    have hlt := ih hb
    rw [unBe_append, List.length_append, List.length_singleton, Nat.mul_add, pow_add]
    omega

/-- A value that fits the buffer is read back from it. -/
theorem unBe_beBytes {n x : Nat} (h : x < 2 ^ (8 * n)) : unBe (beBytes n x) = x := by
  induction n generalizing x with
  | zero => exact (Nat.lt_one_iff.mp h).symm
  | succ n ih =>
    rw [Nat.mul_add, pow_add] at h
    rw [beBytes_succ, unBe_append, ih (Nat.div_lt_of_lt_mul (by omega)), Nat.div_add_mod']

/-- A vector of bytes is the buffer of its value. -/
theorem beBytes_unBe {b : Units} (h : ∀ x ∈ b, x < 256) : beBytes b.length (unBe b) = b := by
  induction b using List.reverseRecOn with
  | nil => rfl
  | append_singleton b x ih =>
    obtain ⟨hb, hx⟩ := List.forall_mem_append.mp h
    have hx := hx x (List.mem_singleton_self x)
    rw [unBe_append, List.length_append, List.length_singleton, beBytes_succ, show (unBe b * 256 + x) / 256 = unBe b by
      omega, show (unBe b * 256 + x) % 256 = x by omega, ih hb]

/-! ## Widths (spec R163) -/

/-- An explicit width is the same for every value. -/
theorem widthBytes_explicit : ∀ e ∈ [(Width.two, 2), (.four, 4), (.eight, 8)], ∀ x, widthBytes e.1 x = e.2 := by
  simp [widthBytes]

theorem two_pow_widthBytes_le (w : Width) (x : Nat) : 2 ^ (8 * widthBytes w x) ≤ 2 ^ 64 := by
  rcases widthBytes_cases w x with h | h | h <;> rw [h] <;> decide

/-- AUTO fits every value below 2^64. -/
theorem lt_two_pow_widthBytes_auto {x : Nat} (h : x < 2 ^ 64) : x < 2 ^ (8 * widthBytes .auto x) := by
  unfold widthBytes
  split_ifs with h2 h4
  exacts [h2, h4, h]

/-- AUTO takes no wider width than one the value fits. -/
theorem widthBytes_auto_le {w : Width} {x y : Nat} (h : x < 2 ^ (8 * widthBytes w y)) :
    widthBytes .auto x ≤ widthBytes w y := by
  rcases widthBytes_cases w y with hw | hw | hw <;> rw [hw] at h ⊢
  · exact (if_pos h).le
  · simp only [widthBytes]
    split_ifs <;> omega
  · rcases widthBytes_cases .auto x with hx | hx | hx <;> omega

/-- Two values need the same width under AUTO where they lie on the same side of 2^16 and of 2^32. -/
theorem widthBytes_auto_eq_iff {x y : Nat} :
    widthBytes .auto x = widthBytes .auto y ↔ (x < 2 ^ 16 ↔ y < 2 ^ 16) ∧ (x < 2 ^ 32 ↔ y < 2 ^ 32) := by
  simp only [widthBytes]
  split_ifs <;> omega

/-! ## The errors of the byte core (spec R122, R149) -/

theorem ErrCode.eq_widthFit_of_code {e : ErrCode} (h : e.code = ErrCode.widthFit.code) : e = .widthFit := by
  revert h
  cases e <;> decide

theorem roundB_eq_error {dg : DigestFn} {item kb : Units} {i : Nat} {e : Engine} {x : ErrCode}
    (h : roundB dg item i kb e = .error x) : kb = [] ∧ x = .keyEmpty := by
  by_cases hk : kb = []
  · subst hk
    cases h
    exact ⟨rfl, rfl⟩
  · rw [roundB_ok dg item i hk e] at h
    cases h

section

variable {f : Nat → Units → Except ErrCode Units} {n : Nat} {e : ErrCode}

theorem fpeEncRound_eq_error {i : Nat} {p : Units × Units} (h : fpeEncRound f i p = .error e) :
    (∃ i x, f i x = .error e) ∨ e = .lengthMismatch := by
  rcases bind_eq_error.mp h with h | ⟨_, -, h⟩
  · exact .inl ⟨_, _, h⟩
  rcases bind_eq_error.mp h with h | ⟨_, -, h⟩
  · exact .inr (xorUnits_eq_error h)
  · cases h

theorem fpeDecRound_eq_error {i : Nat} {p : Units × Units} (h : fpeDecRound f i p = .error e) :
    (∃ i x, f i x = .error e) ∨ e = .lengthMismatch := by
  rcases bind_eq_error.mp h with h | ⟨_, -, h⟩
  · exact .inl ⟨_, _, h⟩
  rcases bind_eq_error.mp h with h | ⟨_, -, h⟩
  · exact .inr (xorUnits_eq_error h)
  · cases h

/-- Whatever FPE_CORE_ENC raises, its round function or the XOR raised. -/
theorem fpeCoreEnc_eq_error {v : Units} (h : fpeCoreEnc f n v = .error e) :
    (∃ i x, f i x = .error e) ∨ e = .lengthMismatch := by
  have hrounds : ∀ {n p}, fpeEncRounds f n p = .error e → (∃ i x, f i x = .error e) ∨ e = .lengthMismatch := by
    intro n
    induction n with
    | zero => nofun
    | succ n ih =>
      intro p h
      rcases bind_eq_error.mp h with h | ⟨_, -, h⟩
      · exact ih h
      · exact fpeEncRound_eq_error h
  by_cases hv : v = []
  · subst hv
    cases h
  · rw [fpeCoreEnc_eq_map hv] at h
    exact hrounds (map_eq_error.mp h)

/-- Likewise FPE_CORE_DEC. -/
theorem fpeCoreDec_eq_error {v : Units} (h : fpeCoreDec f n v = .error e) :
    (∃ i x, f i x = .error e) ∨ e = .lengthMismatch := by
  have hrounds : ∀ {n p}, fpeDecRounds f n p = .error e → (∃ i x, f i x = .error e) ∨ e = .lengthMismatch := by
    intro n
    induction n with
    | zero => nofun
    | succ n ih =>
      intro p h
      rcases bind_eq_error.mp h with h | ⟨_, -, h⟩
      · exact fpeDecRound_eq_error h
      · exact ih h
  by_cases hv : v = []
  · subst hv
    cases h
  · rw [fpeCoreDec_eq_map hv] at h
    exact hrounds (map_eq_error.mp h)

end

namespace State

variable {s : State} {w : Width}

theorem engineSel_eq_error {e : ErrCode} (h : s.engineSel = .error e) : e = .engineBad := by
  unfold engineSel at h
  split at h <;> cases h
  rfl

theorem fpeRound_eq_error {dg : DigestFn} {i : Nat} {x : Units} {e : ErrCode} (h : s.fpeRound dg i x = .error e) :
    e = .unencodable ∨ e = .engineBad ∨ e = .keyEmpty := by
  rcases bind_eq_error.mp h with h | ⟨kb, -, h⟩
  · exact .inl (utf8_eq_error h).1
  rcases bind_eq_error.mp h with h | ⟨_, -, h⟩
  · exact .inr (.inl (engineSel_eq_error h))
  · exact .inr (.inr (roundB_eq_error h).2)

/-- No byte core raises 0x42, not even under a configuration that no CONFIGURE would latch. -/
theorem fpeEncrypt_ne_widthFit (dg : DigestFn) (p : Units) : s.fpeEncrypt dg p ≠ .error .widthFit := fun h => by
  rcases fpeCoreEnc_eq_error h with ⟨i, x, hround⟩ | hxor
  · simpa using fpeRound_eq_error hround
  · cases hxor

theorem fpeDecrypt_ne_widthFit (dg : DigestFn) (c : Units) : s.fpeDecrypt dg c ≠ .error .widthFit := fun h => by
  rcases fpeCoreDec_eq_error h with ⟨i, x, hround⟩ | hxor
  · simpa using fpeRound_eq_error hround
  · cases hxor

/-! ## The byte core under a latched configuration (spec R149, R151) -/

theorem Good.fpeEncrypt_spec (hs : s.Good) (hv : s.latched .fpe) (dg : DigestFn) (v : Units) :
    ∃ c, s.fpeEncrypt dg v = .ok c ∧ s.fpeDecrypt dg c = .ok v ∧ c.length = v.length ∧
      ((∀ x ∈ v, x < 256) → ∀ x ∈ c, x < 256) := by
  obtain ⟨kb, e, hkb, he, hne⟩ := hs.fpe_configured hv
  simp only [fpeEncrypt_eq hkb he, fpeDecrypt_eq hkb he]
  exact fpeCoreEnc_spec (isMask_roundB dg kb e) (roundB_total dg hne e) s.rounds.toNat v

theorem Good.fpeDecrypt_spec (hs : s.Good) (hv : s.latched .fpe) (dg : DigestFn) (v : Units) :
    ∃ p, s.fpeDecrypt dg v = .ok p ∧ s.fpeEncrypt dg p = .ok v ∧ p.length = v.length ∧
      ((∀ x ∈ v, x < 256) → ∀ x ∈ p, x < 256) := by
  obtain ⟨kb, e, hkb, he, hne⟩ := hs.fpe_configured hv
  simp only [fpeEncrypt_eq hkb he, fpeDecrypt_eq hkb he]
  exact fpeCoreDec_spec (isMask_roundB dg kb e) (roundB_total dg hne e) s.rounds.toNat v

theorem Good.fpeDecrypt_of_fpeEncrypt (hs : s.Good) (hv : s.latched .fpe) {dg : DigestFn} {v c : Units}
    (h : s.fpeEncrypt dg v = .ok c) : s.fpeDecrypt dg c = .ok v := by
  obtain ⟨c', hc, hdec, -⟩ := hs.fpeEncrypt_spec hv dg v
  rw [h] at hc
  cases hc
  exact hdec

/-! ## The operand and the result of a number command (spec R163 to R168) -/

theorem numOperand_magnitude (h : 2 ^ 64 ≤ s.numIn) : s.numOperand w = .error .magnitude := if_pos h

theorem numOperand_widthFit (h : s.numIn < 2 ^ 64) (hw : 2 ^ (8 * widthBytes w s.numIn) ≤ s.numIn) :
    s.numOperand w = .error .widthFit := by rw [numOperand, if_neg (Nat.not_le.mpr h), if_pos hw]

theorem numOperand_ok (h : s.numIn < 2 ^ (8 * widthBytes w s.numIn)) :
    s.numOperand w = .ok (s.numIn, widthBytes w s.numIn) := by
  rw [numOperand, if_neg (Nat.not_le.mpr (h.trans_le (two_pow_widthBytes_le w _))), if_neg (Nat.not_le.mpr h)]

theorem numOperand_auto_ne_widthFit : s.numOperand .auto ≠ .error .widthFit := by
  rcases Nat.lt_or_ge s.numIn (2 ^ 64) with h | h
  · rw [numOperand_ok (lt_two_pow_widthBytes_auto h)]
    nofun
  · rw [numOperand_magnitude h]
    nofun

section

variable (hv : s.latched .fpe) {core : Units → Except ErrCode Units}

include hv

theorem numResult_of_operand_error {e : ErrCode} (h : s.numOperand w = .error e) : s.numResult w core = .error e := by
  rw [numResult, require_ok hv, bind_ok, h, bind_error]

/-- Under a core that keeps lengths and bytes, a value that fits gives one of the same width: zero for zero, else the value
whose buffer the core answers with (spec R165, R167, R168). -/
theorem numResult_spec (hfit : s.numIn < 2 ^ (8 * widthBytes w s.numIn))
    (hcore : ∀ v, ∃ c, core v = .ok c ∧ c.length = v.length ∧ ((∀ x ∈ v, x < 256) → ∀ x ∈ c, x < 256)) :
    ∃ y, s.numResult w core = .ok (y, widthBytes w s.numIn) ∧ y < 2 ^ (8 * widthBytes w s.numIn) ∧
      (s.numIn = 0 → y = 0) ∧ (s.numIn ≠ 0 → core (beBytes (widthBytes w s.numIn) s.numIn) =
        .ok (beBytes (widthBytes w s.numIn) y)) := by
  rw [numResult, require_ok hv, bind_ok, numOperand_ok hfit, bind_ok]
  dsimp only
  by_cases h0 : s.numIn = 0
  · exact ⟨0, if_pos h0, Nat.two_pow_pos _, fun _ => rfl, fun h => absurd h0 h⟩
  · obtain ⟨c, hc, hlen, hbytes⟩ := hcore (beBytes (widthBytes w s.numIn) s.numIn)
    rw [beBytes_length] at hlen
    have hbytes := hbytes (beBytes_bytes _ _)
    refine ⟨unBe c, ?_, hlen ▸ unBe_lt hbytes, fun h => absurd h h0, fun _ => ?_⟩
    · rw [if_neg h0, hc, map_ok]
    · rw [hc, ← hlen, beBytes_unBe hbytes]

theorem numResult_auto_ne_widthFit (hcore : ∀ v, core v ≠ .error .widthFit) :
    s.numResult .auto core ≠ .error .widthFit := fun h => by
  rw [numResult, require_ok hv, bind_ok] at h
  rcases bind_eq_error.mp h with h | ⟨⟨x, n⟩, -, h⟩
  · exact numOperand_auto_ne_widthFit h
  · dsimp only at h
    split_ifs at h
    exact hcore _ (map_eq_error.mp h)

end

/-! ## The commands (spec R164, R167, R168) -/

theorem exec_num_of_operand_error (hv : s.latched .fpe) {e : ErrCode} (h : s.numOperand w = .error e) :
    exec (.numEnc w) s = .next (s.afterNumberError e) ∧ exec (.numDec w) s = .next (s.afterNumberError e) := by
  rw [exec_number rfl, exec_number rfl, numberResult, numberResult, numResult_of_operand_error hv h,
    numResult_of_operand_error hv h]
  exact ⟨rfl, rfl⟩

/-- A number command whose result is not 0x42 leaves ERRCODE as it was, or with another code (spec R46). -/
theorem errCode_ne_widthFit_of_exec {i : Instr} {t : State} (hi : commandClass i = some .number) (h0 : s.errCode = 0)
    (ht : exec i s = .next t) (hr : numberResult s i ≠ .error .widthFit) : t.errCode ≠ ErrCode.widthFit.code := by
  rw [exec_number hi] at ht
  intro hcode
  rcases s.finishNumber_cases (numberResult s i) with ⟨y, n, -, h⟩ | ⟨e, he, h⟩ <;> rw [ht] at h <;> cases h
  · exact ErrCode.code_ne_zero _ (hcode.symm.trans h0)
  · exact hr (ErrCode.eq_widthFit_of_code hcode ▸ he)

theorem exec_numEnc (hs : s.Good) (hv : s.latched .fpe) (hfit : s.numIn < 2 ^ (8 * widthBytes w s.numIn)) :
    ∃ y, exec (.numEnc w) s = .next (s.afterNumber y (widthBytes w s.numIn)) ∧ y < 2 ^ (8 * widthBytes w s.numIn) ∧
      (s.numIn = 0 → y = 0) ∧ (s.numIn ≠ 0 → s.fpeEncrypt Config.digest (beBytes (widthBytes w s.numIn) s.numIn) =
        .ok (beBytes (widthBytes w s.numIn) y)) := by
  obtain ⟨y, hy, h⟩ := numResult_spec (core := s.fpeEncrypt Config.digest) hv hfit fun v =>
    let ⟨c, hc, _, h⟩ := hs.fpeEncrypt_spec hv Config.digest v
    ⟨c, hc, h⟩
  exact ⟨y, by rw [exec_number rfl, numberResult, hy, finishNumber_ok], h⟩

theorem exec_numDec (hs : s.Good) (hv : s.latched .fpe) (hfit : s.numIn < 2 ^ (8 * widthBytes w s.numIn)) :
    ∃ y, exec (.numDec w) s = .next (s.afterNumber y (widthBytes w s.numIn)) ∧ y < 2 ^ (8 * widthBytes w s.numIn) ∧
      (s.numIn = 0 → y = 0) ∧ (s.numIn ≠ 0 → s.fpeDecrypt Config.digest (beBytes (widthBytes w s.numIn) s.numIn) =
        .ok (beBytes (widthBytes w s.numIn) y)) := by
  obtain ⟨y, hy, h⟩ := numResult_spec (core := s.fpeDecrypt Config.digest) hv hfit fun v =>
    let ⟨p, hp, _, h⟩ := hs.fpeDecrypt_spec hv Config.digest v
    ⟨p, hp, h⟩
  exact ⟨y, by rw [exec_number rfl, numberResult, hy, finishNumber_ok], h⟩

/-! ## The HOST's copy between two number commands (spec R35, R36, R169) -/

/-- The HOST has copied NUM_OUT to NUM_IN. -/
def copyNum (t : State) : State := { t with numIn0 := t.numOut0, numIn1 := t.numOut1, numIn2 := 0, numIn3 := 0 }

theorem copyNum_numIn (t : State) : t.copyNum.numIn = t.numOut := by simp [copyNum, numIn, numOut]

theorem Good.copyNum {t : State} (h : t.Good) : t.copyNum.Good :=
  h.withOperands t.keySel t.ilen t.arg0 t.arg1 t.numOut0 t.numOut1 0 0

theorem afterNumber_numOut {y : Nat} (h : y < 2 ^ 64) (n : Nat) : (s.afterNumber y n).numOut = y := by
  simp only [numOut, afterNumber, BitVec.toNat_ofNat]
  omega

theorem fpeDecrypt_copyNum_afterNumber (dg : DigestFn) (y n : Nat) (c : Units) :
    (s.afterNumber y n).copyNum.fpeDecrypt dg c = s.fpeDecrypt dg c := rfl

/-- NUM_ENC of a value that fits, with what NUM_DEC finds after the copy: a value of the same buffer length, whose
decryption is the value (spec R167, R169). -/
theorem copyNum_of_exec_numEnc {t : State} (hs : s.Good) (hv : s.latched .fpe)
    (hfit : s.numIn < 2 ^ (8 * widthBytes w s.numIn)) (ht : exec (.numEnc w) s = .next t) :
    t.copyNum.Good ∧ t.copyNum.latched .fpe ∧ t.copyNum.numIn < 2 ^ (8 * widthBytes w s.numIn) ∧
      (s.numIn = 0 → t.copyNum.numIn = 0) ∧
      (s.numIn ≠ 0 → t.copyNum.fpeDecrypt Config.digest (beBytes (widthBytes w s.numIn) t.copyNum.numIn) =
        .ok (beBytes (widthBytes w s.numIn) s.numIn)) := by
  obtain ⟨y, henc, hy, hy0, hcore⟩ := exec_numEnc hs hv hfit
  have hgood := (hs.exec ht).copyNum
  rw [henc] at ht
  cases ht
  have hnum := afterNumber_numOut (s := s) (hy.trans_le (two_pow_widthBytes_le w _)) (widthBytes w s.numIn)
  rw [copyNum_numIn, hnum, fpeDecrypt_copyNum_afterNumber]
  exact ⟨hgood, hv, hy, hy0, fun h0 => hs.fpeDecrypt_of_fpeEncrypt hv (hcore h0)⟩

/-- NUM_DEC takes NUM_ENC back for zero, and for a value whose encryption is not zero and needs the same width. -/
theorem exec_numDec_copyNum {t : State} (hs : s.Good) (hv : s.latched .fpe)
    (hfit : s.numIn < 2 ^ (8 * widthBytes w s.numIn)) (ht : exec (.numEnc w) s = .next t)
    (h0 : s.numIn = 0 ∨ t.numOut ≠ 0) (hw : widthBytes w t.numOut = widthBytes w s.numIn) :
    exec (.numDec w) t.copyNum = .next (t.copyNum.afterNumber s.numIn (widthBytes w s.numIn)) := by
  obtain ⟨hgood, hlatched, hlt, hzero, hback⟩ := copyNum_of_exec_numEnc hs hv hfit ht
  rw [← copyNum_numIn] at h0 hw
  rw [← hw] at hlt
  obtain ⟨z, hdec, hz, hz0, hcore⟩ := exec_numDec hgood hlatched hlt
  rw [hw] at hdec hz hcore
  obtain rfl : z = s.numIn := by
    by_cases hx : s.numIn = 0
    · rw [hz0 (hzero hx), hx]
    · have hbytes := (hcore (h0.resolve_left hx)).symm.trans (hback hx)
      rw [← unBe_beBytes hz, Except.ok.inj hbytes, unBe_beBytes hfit]
  exact hdec

/-- Under AUTO it does so for no other value: zero comes back as zero, and a value of another width is too big for the
width of its encryption. -/
theorem exec_numDec_auto_copyNum {t : State} (hs : s.Good) (hv : s.latched .fpe) (hlt : s.numIn < 2 ^ 64)
    (ht : exec (.numEnc .auto) s = .next t) :
    ∃ v : State, exec (.numDec .auto) t.copyNum = .next v ∧
      (v.numOut = s.numIn ↔
        s.numIn = 0 ∨ (t.numOut ≠ 0 ∧ widthBytes .auto t.numOut = widthBytes .auto s.numIn)) := by
  have hfit := lt_two_pow_widthBytes_auto hlt
  obtain ⟨hgood, hlatched, hfit', hzero, -⟩ := copyNum_of_exec_numEnc hs hv hfit ht
  obtain ⟨z, hdec, hz, hz0, -⟩ := exec_numDec (w := .auto) hgood hlatched
    (lt_two_pow_widthBytes_auto (hfit'.trans_le (two_pow_widthBytes_le .auto _)))
  have hnum := afterNumber_numOut (s := t.copyNum) (hz.trans_le (two_pow_widthBytes_le .auto _))
  rw [copyNum_numIn] at hfit' hzero hz hz0
  refine ⟨_, hdec, fun hback => ?_, fun h => ?_⟩
  · obtain rfl := (hnum _).symm.trans hback
    by_cases hx : s.numIn = 0
    · exact .inl hx
    · exact .inr ⟨fun hy => hx (hz0 hy), le_antisymm (widthBytes_auto_le hfit') (widthBytes_auto_le hz)⟩
  · have hw : widthBytes .auto t.numOut = widthBytes .auto s.numIn := by
      rcases h with hx | ⟨-, hw⟩
      · rw [hzero hx, hx]
      · exact hw
    have hround := exec_numDec_copyNum hs hv hfit ht (h.imp_right And.left) hw
    rw [hdec] at hround
    rw [Host.Outcome.next.inj hround, afterNumber_numOut hlt]

end State

/-- Settles O55: both commands by `State.exec_numEnc` and `State.exec_numDec`, the buffers by the sums of R162. -/
theorem numberCommandsKeepTheWidth : Obligations.NumberCommandsKeepTheWidth := by
  unfold Obligations.NumberCommandsKeepTheWidth
  refine ⟨fun n x => ⟨beBytes_length n x, fun j => beBytes_getD⟩, unBe_eq_sum, fun s => ⟨rfl, rfl⟩,
    fun s w n hs hv hn _ hfit => ?_⟩
  obtain rfl : n = widthBytes w s.numIn := hn.trans (by cases w <;> rfl)
  obtain ⟨y, henc, hy, hy0, hcore⟩ := State.exec_numEnc hs hv hfit
  obtain ⟨z, hdec, hz, hz0, hcore'⟩ := State.exec_numDec hs hv hfit
  refine ⟨fun h0 => ?_, fun h0 => ?_⟩
  · obtain rfl := hy0 h0
    obtain rfl := hz0 h0
    exact ⟨henc, hdec⟩
  · obtain ⟨kb, e, hkb, he, -⟩ := hs.fpe_configured hv
    refine ⟨kb, e, _, _, hkb, he, (State.fpeEncrypt_eq hkb he ..).symm.trans (hcore h0),
      (State.fpeDecrypt_eq hkb he ..).symm.trans (hcore' h0), ?_⟩
    rw [unBe_beBytes hy, unBe_beBytes hz]
    exact ⟨henc, hy, hdec, hz⟩

/-- Settles O56: the operand's checks come first, and under AUTO neither they nor the byte core raise 0x42. -/
theorem numberCommandsCheckTheMagnitude : Obligations.NumberCommandsCheckTheMagnitude := by
  unfold Obligations.NumberCommandsCheckTheMagnitude
  refine fun s hv => ⟨fun hbig w => State.exec_num_of_operand_error hv (State.numOperand_magnitude hbig),
    fun hlt e he hbig => ?_, fun t ht h0 => ?_⟩
  · rw [← widthBytes_explicit e (List.mem_append_left [(Width.eight, 8)] he) s.numIn] at hbig
    exact State.exec_num_of_operand_error hv (State.numOperand_widthFit hlt hbig)
  · rcases ht with ht | ht
    · exact State.errCode_ne_widthFit_of_exec rfl h0 ht
        (State.numResult_auto_ne_widthFit hv (State.fpeEncrypt_ne_widthFit _))
    · exact State.errCode_ne_widthFit_of_exec rfl h0 ht
        (State.numResult_auto_ne_widthFit hv (State.fpeDecrypt_ne_widthFit _))

/-- Settles O57: where the copied value needs the width it was encrypted with, by `State.exec_numDec_copyNum`; under AUTO a
smaller width cannot hold the value again. -/
theorem integerRoundTrips : Obligations.IntegerRoundTrips := by
  unfold Obligations.IntegerRoundTrips
  rintro s t u hs hv rfl
  rw [← State.copyNum]
  refine ⟨fun e he hfit henc h0 => ?_, fun hlt henc => ?_⟩
  · have hw := widthBytes_explicit e he
    rw [← hw s.numIn] at hfit ⊢
    exact State.exec_numDec_copyNum hs hv hfit henc h0 ((hw _).trans (hw _).symm)
  · rw [← widthBytes_auto_eq_iff]
    exact State.exec_numDec_auto_copyNum hs hv hlt henc

end Sys2Proof.Machine

/-! # Errors: the writes of a class, and the codes a command raises (spec R172 to R175) -/

namespace Sys2Proof.Machine

/-! ## A command that ends with an error (spec R46, R174) -/

/-- Where a completion sets ERR, the command's result or check gave the code, or the output did not fit. -/
theorem exec_inv_of_err {i : Instr} {s t : State} (h : exec i s = .next t) (h0 : s.status.err = false)
    (h1 : t.status.err = true) :
    (commandClass i = some .output ∧
      ∃ e, (outputResult s i = .error e ∨ e = .capacityOut) ∧ t = s.afterOutputError e) ∨
    (commandClass i = some .number ∧ ∃ e, numberResult s i = .error e ∧ t = s.afterNumberError e) ∨
    (commandClass i = some .configure ∧
      ∃ v, (i = .configureBal ∧ v = .bal ∨ i = .configureMk ∧ v = .mk ∨ i = .configureFpe ∧ v = .fpe) ∧
        ∃ e, s.checkConfig v = .error e ∧ t = s.afterConfigError e) := by
  have hkept : t.status.err ≠ s.status.err := by simp [h0, h1]
  rcases exec_inv h with ⟨-, rfl⟩ | ⟨hc, -⟩ | ⟨hc, -⟩ | ⟨hc, -⟩
  · exact absurd rfl hkept
  · refine .inl ⟨hc, ?_⟩
    rw [exec_output hc] at h
    rcases s.finishOutput_cases (outputResult s i) with ⟨v, -, -, hf⟩ | ⟨v, -, -, hf⟩ | ⟨e, he, hf⟩
    all_goals obtain rfl := Host.Outcome.next.inj (h.symm.trans hf)
    · exact absurd rfl hkept
    · exact ⟨_, .inr rfl, rfl⟩
    · exact ⟨e, .inl he, rfl⟩
  · refine .inr (.inl ⟨hc, ?_⟩)
    rw [exec_number hc] at h
    rcases s.finishNumber_cases (numberResult s i) with ⟨y, w, -, hf⟩ | ⟨e, he, hf⟩
    all_goals obtain rfl := Host.Outcome.next.inj (h.symm.trans hf)
    · exact absurd rfl hkept
    · exact ⟨e, he, rfl⟩
  · obtain ⟨v, hv, hexec⟩ := exec_configure hc s
    refine .inr (.inr ⟨hc, v, hv, ?_⟩)
    rw [hexec] at h
    rcases s.finishConfigure_cases v (s.checkConfig v) with ⟨-, hf⟩ | ⟨e, he, hf⟩
    all_goals obtain rfl := Host.Outcome.next.inj (h.symm.trans hf)
    · exact absurd rfl hkept
    · exact ⟨e, he, rfl⟩

/-- Settles O20: the classes by `exec_inv_of_err`, the illegal word by `State.engineStep_illegal`. -/
theorem errorWritesFollowTheClass : Obligations.ErrorWritesFollowTheClass := by
  unfold Obligations.ErrorWritesFollowTheClass
  refine ⟨fun i s t h h0 h1 => ?_, fun s t h => ?_, fun s hillegal => ?_⟩
  · rcases exec_inv_of_err h h0 h1 with ⟨hc, e, -, ht⟩ | ⟨hc, e, -, ht⟩ | ⟨hc, -, -, e, -, ht⟩
    · exact .inl ⟨hc, e, ht⟩
    · exact .inr (.inl ⟨hc, e, ht⟩)
    · exact .inr (.inr ⟨hc, e, ht⟩)
  · cases h
    rfl
  · obtain ⟨e, he⟩ := decode_of_illegal hillegal
    rw [State.engineStep_illegal he]
    rfl

/-! ## The first check of a cipher command (spec R86, R175) -/

section

variable {s : State} {v : Variant} {i : Instr} (hv : ¬ s.latched v)

include hv

/-- An output command that begins with REQUIRE(v) ends there. -/
theorem exec_output_of_not_latched {rest : Unit → Except ErrCode Units} (hi : commandClass i = some .output)
    (h : outputResult s i = (s.require v >>= rest)) : exec i s = .next (s.afterOutputError .notConfigured) :=
  exec_of_result_error hi (by rw [h, State.require_error hv, bind_error])

theorem exec_number_of_not_latched {rest : Unit → Except ErrCode (Nat × Nat)} (hi : commandClass i = some .number)
    (h : numberResult s i = (s.require v >>= rest)) : exec i s = .next (s.afterNumberError .notConfigured) := by
  rw [exec_number hi, h, State.require_error hv, bind_error, State.finishNumber_error]

end

/-- Settles O22: each cipher command begins with REQUIRE. -/
theorem ciphersNeedTheirVariantLatched : Obligations.CiphersNeedTheirVariantLatched := by
  unfold Obligations.CiphersNeedTheirVariantLatched
  exact fun s => ⟨fun hv => ⟨exec_output_of_not_latched hv rfl rfl, exec_output_of_not_latched hv rfl rfl⟩,
    fun hv => ⟨exec_output_of_not_latched hv rfl rfl, exec_output_of_not_latched hv rfl rfl⟩,
    fun hv f w => ⟨exec_output_of_not_latched hv rfl rfl, exec_output_of_not_latched hv rfl rfl,
      exec_output_of_not_latched hv rfl rfl, exec_output_of_not_latched hv rfl rfl,
      exec_number_of_not_latched hv rfl rfl, exec_number_of_not_latched hv rfl rfl⟩⟩

end Sys2Proof.Machine

/-! # The codes each command can raise (spec R172) -/

namespace Sys2Proof.Machine

/-! ## The errors of a chain of checks, in order -/

/-- Whatever error `x` ends with is in `l`. -/
def RaisesOnly {α : Type} (l : List ErrCode) (x : Except ErrCode α) : Prop := ∀ e, x = .error e → e ∈ l

namespace RaisesOnly

variable {α β : Type} {l k : List ErrCode} {x y : Except ErrCode α} {f : α → Except ErrCode β} {g : α → β}

theorem ok (a : α) : RaisesOnly [] (Except.ok a) := nofun

theorem of_ok (h : ∃ a, x = .ok a) : RaisesOnly [] x := by
  obtain ⟨a, rfl⟩ := h
  exact ok a

theorem error (e : ErrCode) : RaisesOnly [e] (Except.error e : Except ErrCode α) := fun _ h => by
  cases h
  exact List.mem_singleton_self e

theorem mono (h : RaisesOnly l x) (hlk : l ⊆ k) : RaisesOnly k x := fun e he => hlk (h e he)

theorem bind (hx : RaisesOnly l x) (hf : ∀ a, x = .ok a → RaisesOnly k (f a)) : RaisesOnly (l ++ k) (x >>= f) :=
  fun e h => by
    rcases bind_eq_error.mp h with h | ⟨a, ha, h⟩
    · exact List.mem_append_left k (hx e h)
    · exact List.mem_append_right l (hf a ha e h)

theorem map (hx : RaisesOnly l x) : RaisesOnly l (x.map g) := fun e h => hx e (map_eq_error.mp h)

theorem ite {c : Prop} [Decidable c] (hx : c → RaisesOnly l x) (hy : ¬ c → RaisesOnly k y) :
    RaisesOnly (l ++ k) (if c then x else y) := by
  split_ifs with hc
  · exact (hx hc).mono (List.subset_append_left l k)
  · exact (hy hc).mono (List.subset_append_right l k)

end RaisesOnly

/-! ## The datapath (spec R97 to R103, R122, R128) -/

theorem extractUnits_raisesOnly (k : Units) (idx n : Nat) : RaisesOnly [.keyEmpty] (extractUnits k idx n) :=
  fun _ h => by simp [(extractUnits_eq_error h).2]

theorem utf8_raisesOnly (v : Units) : RaisesOnly [.unencodable] (utf8 v) := fun _ h => by simp [(utf8_eq_error h).1]

theorem utf8Dec_raisesOnly (b : Units) : RaisesOnly [.ctBadUtf8] (utf8Dec b) := fun _ h => by simp [utf8Dec_error h]

theorem b256DecUnits_raisesOnly (t v : Units) : RaisesOnly [.ctBadChar] (b256DecUnits t v) :=
  fun _ h => by simp [b256DecUnits_eq_error h]

theorem addCp_raisesOnly (a b : Units) : RaisesOnly [.lengthMismatch] (addCp a b) :=
  .ite (fun _ => .error _) fun _ => .ok _

theorem addBytes_raisesOnly (a b : Units) : RaisesOnly [.lengthMismatch] (addBytes a b) :=
  .ite (fun _ => .error _) fun _ => .ok _

theorem xorUnits_raisesOnly (a b : Units) : RaisesOnly [.lengthMismatch] (xorUnits a b) :=
  .ite (fun _ => .error _) fun _ => .ok _

section

variable (dg : DigestFn) (item key : Units) (i : Nat) (e : Engine)

theorem roundB_raisesOnly : RaisesOnly [.keyEmpty] (roundB dg item i key e) := fun _ h => by simp [(roundB_eq_error h).2]

theorem roundCp_raisesOnly : RaisesOnly [.keyEmpty, .unencodable] (roundCp dg item i key e) := fun _ h => by
  rcases roundCp_eq_error h with ⟨-, rfl⟩ | ⟨-, rfl⟩ <;> simp

theorem roundCp_raisesOnly_of_ne_nil {key : Units} (hk : key ≠ []) :
    RaisesOnly [.unencodable] (roundCp dg item i key e) := fun _ h => by
  rcases roundCp_eq_error h with ⟨hnil, -⟩ | ⟨-, rfl⟩
  · exact absurd hnil hk
  · simp

end

section

variable {f : Nat → Units → Except ErrCode Units} {n : Nat} {l : List ErrCode}
  (he : ∀ i < n, ∀ x, RaisesOnly l (f i x))

include he

/-- On halves of one length a mask has the length of the half it masks: the XOR raises nothing (spec R135). -/
theorem balEncRounds_raisesOnly (hf : IsMask f) {p : Units × Units} (hp : p.1.length = p.2.length) :
    RaisesOnly l (balEncRounds f n p) := by
  induction n with
  | zero => exact (RaisesOnly.ok p).mono (List.nil_subset l)
  | succ n ih =>
    refine ((ih fun i hi => he i (by omega)).bind (k := l) fun ⟨a, b⟩ hq => ?_).mono (by simp)
    obtain ⟨ha, hb, -⟩ := balEncRounds_keeps hf (P := fun _ => True) (fun _ _ _ _ => trivial) hp
      ⟨fun _ _ => trivial, fun _ _ => trivial⟩ hq
    refine ((he n (by omega) b).bind (k := []) fun m hm => ?_).mono (by simp)
    have hlen : a.length = m.length := ha.trans (hb.symm.trans (hf.length hm).symm)
    exact .of_ok ⟨_, by rw [xorUnits_ok hlen]; rfl⟩

theorem balCoreEnc_raisesOnly (hf : IsMask f) (d : Units) : RaisesOnly l (balCoreEnc f n d) := by
  have hrounds := balEncRounds_raisesOnly he hf (splitUnits_length_eq (padUnits_length_even d))
  exact (RaisesOnly.ite (fun _ => .ok _) fun _ => hrounds.bind fun _ _ => .ok _).mono (by simp)

/-- The decryption may be of an odd number of characters (spec R136). -/
theorem balDecRounds_raisesOnly (p : Units × Units) : RaisesOnly (.lengthMismatch :: l) (balDecRounds f n p) := by
  induction n generalizing p with
  | zero => exact (RaisesOnly.ok p).mono (List.nil_subset _)
  | succ n ih =>
    obtain ⟨b, a⟩ := p
    exact ((he n (by omega) b).bind fun m _ => (xorUnits_raisesOnly a m).bind fun t _ =>
      ih (fun i hi => he i (by omega)) (t, b)).mono (by simp)

theorem balCoreDec_raisesOnly (u : Units) : RaisesOnly (.lengthMismatch :: l) (balCoreDec f n u) :=
  ((balDecRounds_raisesOnly he (splitUnits u)).bind fun _ _ => .ok _).mono (by simp)

end

/-! ## The operands (spec R82 to R86, R116) -/

namespace State

variable (s : State)

theorem inVec_raisesOnly : RaisesOnly [.capacityIn] s.inVec := .ite (fun _ => .error _) fun _ => .ok _

theorem checkUnits_raisesOnly (p : Nat → Bool) (v : Units) : RaisesOnly [.badUnit] (checkUnits p v) :=
  .ite (fun _ => .ok _) fun _ => .error _

theorem bytesIn_raisesOnly : RaisesOnly [.capacityIn, .badUnit] s.bytesIn :=
  s.inVec_raisesOnly.bind fun v _ => checkUnits_raisesOnly isByte v

theorem cpIn_raisesOnly : RaisesOnly [.capacityIn, .badUnit] s.cpIn :=
  s.inVec_raisesOnly.bind fun v _ => checkUnits_raisesOnly isScalar v

theorem keySlot_raisesOnly (k : Nat) : RaisesOnly [.capacityIn] (s.keySlot k) :=
  (RaisesOnly.ite (fun _ => .error _) fun _ => .ite (fun _ => .error _) fun _ => .ok _).mono (by simp)

theorem engineSel_raisesOnly : RaisesOnly [.engineBad] s.engineSel := fun _ h => by simp [engineSel_eq_error h]

theorem require_raisesOnly (v : Variant) : RaisesOnly [.notConfigured] (s.require v) :=
  .ite (fun _ => .ok _) fun _ => .error _

theorem latched_of_require {v : Variant} {u : Unit} (h : s.require v = .ok u) : s.latched v := by
  rcases s.require_cases v with ⟨hv, -⟩ | ⟨-, he⟩
  · exact hv
  · rw [h] at he
    cases he

/-- What CP_IN answers is text that UTF8 encodes (spec R83, R102). -/
theorem utf8_of_cpIn {v : Units} (h : s.cpIn = .ok v) : ∃ b, utf8 v = .ok b := by
  rcases s.checkedIn_cases isScalar with ⟨hin, hok⟩ | he | he <;> rw [cpIn_eq] at h
  · rw [hok] at h
    cases h
    exact ⟨_, (utf8_ok hin.forall_mem).1⟩
  · rw [he] at h
    cases h
  · rw [he] at h
    cases h

/-! ## CONFIGURE (spec R90 to R92) -/

theorem checkKey_raisesOnly (k : Nat) : RaisesOnly [.capacityIn, .keyEmpty, .badUnit] (s.checkKey k) :=
  (s.keySlot_raisesOnly k).bind fun _ _ => .ite (fun _ => .error _) fun _ => .ite (fun _ => .ok _) fun _ => .error _

theorem checkRounds_raisesOnly : RaisesOnly [.roundsLow] s.checkRounds := .ite (fun _ => .error _) fun _ => .ok _

theorem checkKeys_raisesOnly (ks : List Nat) : RaisesOnly [.capacityIn, .keyEmpty, .badUnit] (s.checkKeys ks) := by
  induction ks with
  | nil => exact (RaisesOnly.ok ()).mono (List.nil_subset _)
  | cons k ks ih => exact ((s.checkKey_raisesOnly k).bind fun _ _ => ih).mono (by simp)

theorem checkBal_raisesOnly : RaisesOnly (listedErrors .configureBal) s.checkBal :=
  (s.checkKey_raisesOnly 0).bind fun _ _ => s.checkRounds_raisesOnly

theorem checkMk_raisesOnly : RaisesOnly (listedErrors .configureMk) s.checkMk :=
  (RaisesOnly.ite (fun _ => .error _) fun _ => .ite (fun _ => .error _) fun _ => s.checkKeys_raisesOnly _).mono
    (by simp [listedErrors])

theorem checkFpe_raisesOnly : RaisesOnly (listedErrors .configureFpe) s.checkFpe :=
  s.engineSel_raisesOnly.bind fun _ _ => s.checkBal_raisesOnly

/-! ## The primitive commands (spec R110 to R114, R123, R124, R131, R132) -/

theorem extractMaterial_raisesOnly (m : Mode) : RaisesOnly (listedErrors (.extract m)) (s.extractMaterial m) := by
  cases m with
  | cp => exact ((s.keySlot_raisesOnly _).bind fun _ _ => .ok _).mono (by simp [listedErrors])
  | byte => exact ((s.keySlot_raisesOnly _).bind fun key _ => utf8_raisesOnly key).mono (by simp [listedErrors])

theorem extractResult_raisesOnly (m : Mode) : RaisesOnly (listedErrors (.extract m)) (s.extractResult m) := by
  refine ((s.extractMaterial_raisesOnly m).bind fun mat _ => .ite (fun _ => .error _) fun _ =>
    .ite (fun _ => .error _) fun _ => extractUnits_raisesOnly mat _ _).mono ?_
  cases m <;> simp [listedErrors]

theorem operandPair_raisesOnly (m : Mode) :
    RaisesOnly [.capacityIn, .badUnit, .lengthMismatch] (s.operandPair m) :=
  s.inVec_raisesOnly.bind fun v _ => (checkUnits_raisesOnly _ v).bind fun _ _ =>
    .ite (fun _ => .error _) fun _ => .ok _

theorem addResult_raisesOnly (m : Mode) : RaisesOnly (listedErrors (.add m)) (s.addResult m) := by
  refine ((s.operandPair_raisesOnly m).bind (k := [.lengthMismatch]) fun ⟨a, b⟩ _ => ?_).mono (by simp [listedErrors])
  cases m with
  | cp => exact addCp_raisesOnly a b
  | byte => exact addBytes_raisesOnly a b

theorem xorResult_raisesOnly (m : Mode) : RaisesOnly (listedErrors (.xor m)) (s.xorResult m) :=
  ((s.operandPair_raisesOnly m).bind fun ⟨a, b⟩ _ => xorUnits_raisesOnly a b).mono (by simp [listedErrors])

theorem digestResult_raisesOnly (dg : DigestFn) (f : Form) :
    RaisesOnly (listedErrors (.digest f)) (s.digestResult dg f) := by
  refine (s.engineSel_raisesOnly.bind fun _ _ => s.bytesIn_raisesOnly.bind (k := []) fun _ _ => ?_).mono
    (by simp [listedErrors])
  cases f <;> exact .ok _

theorem roundResult_raisesOnly (dg : DigestFn) (m : Mode) :
    RaisesOnly (listedErrors (.round m)) (s.roundResult dg m) := by
  refine (s.engineSel_raisesOnly.bind fun e _ => (s.keySlot_raisesOnly _).bind
    (k := [.capacityIn, .badUnit, .keyEmpty, .unencodable]) fun key _ => ?_).mono (by simp [listedErrors])
  cases m with
  | cp => exact s.cpIn_raisesOnly.bind fun item _ => roundCp_raisesOnly dg item key _ e
  | byte =>
    exact (s.bytesIn_raisesOnly.bind fun item _ => (utf8_raisesOnly key).bind fun kb _ =>
      roundB_raisesOnly dg item kb _ e).mono (by simp)

/-! ## The balanced ciphers (spec R139, R141 to R143) -/

section

variable {s} {v : Variant} {f : Nat → Units → Except ErrCode Units} {n : Nat}
  (he : s.latched v → ∀ i < n, ∀ x, RaisesOnly [.unencodable] (f i x))

include he

theorem feistelEnc_raisesOnly (hf : IsMask f) :
    RaisesOnly (listedErrors .balEnc) (s.feistelEnc v f n) :=
  ((s.require_raisesOnly v).bind fun _ hv => s.cpIn_raisesOnly.bind fun d _ =>
    (balCoreEnc_raisesOnly (he (s.latched_of_require hv)) hf d).bind fun c _ => utf8_raisesOnly c).mono
    (by simp [listedErrors])

theorem feistelDec_raisesOnly : RaisesOnly (listedErrors .balDec) (s.feistelDec v f n) :=
  ((s.require_raisesOnly v).bind fun _ hv => s.bytesIn_raisesOnly.bind fun b _ =>
    .ite (fun _ => .ok _) fun _ => .ite (fun _ => .error _) fun _ =>
      (utf8Dec_raisesOnly b).bind fun u _ => balCoreDec_raisesOnly (he (s.latched_of_require hv)) u).mono
    (by simp [listedErrors])

end

section

variable {s} (hs : s.Good) (dg : DigestFn)

include hs

/-- The latched key string is not empty, so a BAL round raises 0xE3 alone (spec R122, R144). -/
theorem Good.balRound_raisesOnly (hv : s.latched .bal) (i : Nat) (x : Units) :
    RaisesOnly [.unencodable] (s.balRound dg i x) := by
  obtain ⟨hbal, -, -⟩ := checkConfig_eq_ok (hs.checkConfig_of_latched hv)
  obtain ⟨hkey, -⟩ := hbal rfl
  exact roundCp_raisesOnly_of_ne_nil dg x i .sha256 hkey.cps_ne_nil

theorem Good.mkRound_raisesOnly (hv : s.latched .mk) (i : Nat) (hi : i < s.nkeys.toNat) (x : Units) :
    RaisesOnly [.unencodable] (s.mkRound dg i x) := by
  obtain ⟨-, hmk, -⟩ := checkConfig_eq_ok (hs.checkConfig_of_latched hv)
  obtain ⟨-, -, hkeys⟩ := hmk rfl
  exact roundCp_raisesOnly_of_ne_nil dg x i .sha256 (hkeys i hi).cps_ne_nil

end

/-! ## The format-preserving cipher and the number commands (spec R156 to R159, R163 to R168) -/

theorem cipherIn_raisesOnly (f : Form) : RaisesOnly (listedErrors (.fpeDec f)) (s.cipherIn f) := by
  cases f with
  | raw => exact s.bytesIn_raisesOnly.mono (by simp [listedErrors])
  | rendered =>
    exact (s.inVec_raisesOnly.bind fun v _ => b256DecUnits_raisesOnly _ v).mono (by simp [listedErrors])

theorem numOperand_raisesOnly (w : Width) : RaisesOnly [.magnitude, .widthFit] (s.numOperand w) :=
  (RaisesOnly.ite (fun _ => .error _) fun _ => .ite (fun _ => .error _) fun _ => .ok _).mono (by simp)

section

variable {s} (hs : s.Good) (dg : DigestFn)

include hs

theorem Good.fpeEncrypt_raisesOnly (hv : s.latched .fpe) (p : Units) : RaisesOnly [] (s.fpeEncrypt dg p) := by
  obtain ⟨c, hc, -⟩ := hs.fpeEncrypt_total hv dg p
  exact .of_ok ⟨c, hc⟩

theorem Good.fpeDecrypt_raisesOnly (hv : s.latched .fpe) (c : Units) : RaisesOnly [] (s.fpeDecrypt dg c) := by
  obtain ⟨p, hp, -⟩ := hs.fpeDecrypt_total hv dg c
  exact .of_ok ⟨p, hp⟩

theorem Good.fpeEncResult_raisesOnly (f : Form) : RaisesOnly (listedErrors (.fpeEnc f)) (s.fpeEncResult dg f) :=
  ((s.require_raisesOnly .fpe).bind fun _ hv => s.bytesIn_raisesOnly.bind fun p _ =>
    (hs.fpeEncrypt_raisesOnly dg (s.latched_of_require hv) p).bind fun _ _ => .ok _).mono (by simp [listedErrors])

theorem Good.fpeEncStrResult_raisesOnly (f : Form) :
    RaisesOnly (listedErrors (.fpeEncStr f)) (s.fpeEncStrResult dg f) :=
  ((s.require_raisesOnly .fpe).bind fun _ hv => s.cpIn_raisesOnly.bind fun _ hcp =>
    (RaisesOnly.of_ok (s.utf8_of_cpIn hcp)).bind fun p _ =>
      (hs.fpeEncrypt_raisesOnly dg (s.latched_of_require hv) p).bind fun _ _ => .ok _).mono (by simp [listedErrors])

theorem Good.fpeDecResult_raisesOnly (f : Form) : RaisesOnly (listedErrors (.fpeDec f)) (s.fpeDecResult dg f) := by
  refine ((s.require_raisesOnly .fpe).bind fun _ hv => (s.cipherIn_raisesOnly f).bind fun c _ =>
    hs.fpeDecrypt_raisesOnly dg (s.latched_of_require hv) c).mono ?_
  cases f <;> simp [listedErrors]

theorem Good.fpeDecStrResult_raisesOnly (f : Form) :
    RaisesOnly (listedErrors (.fpeDecStr f)) (s.fpeDecStrResult dg f) := by
  refine ((s.require_raisesOnly .fpe).bind fun _ hv => (s.cipherIn_raisesOnly f).bind fun c _ =>
    (hs.fpeDecrypt_raisesOnly dg (s.latched_of_require hv) c).bind fun p _ => utf8Dec_raisesOnly p).mono ?_
  cases f <;> simp [listedErrors]

end

theorem numResult_raisesOnly {w : Width} {core : Units → Except ErrCode Units}
    (hcore : s.latched .fpe → ∀ b, RaisesOnly [] (core b)) :
    RaisesOnly [.notConfigured, .magnitude, .widthFit] (s.numResult w core) :=
  (s.require_raisesOnly .fpe).bind fun _ hv => (s.numOperand_raisesOnly w).bind fun _ _ =>
    .ite (fun _ => .ok _) fun _ => (hcore (s.latched_of_require hv) _).map

/-! ## Every command -/

variable {s}

theorem Good.outputResult_raisesOnly (hs : s.Good) (i : Instr) : RaisesOnly (listedErrors i) (outputResult s i) := by
  cases i with
  | nop | configureBal | configureMk | configureFpe | numEnc _ | numDec _ =>
    exact (RaisesOnly.ok _).mono (List.nil_subset _)
  | extract m => exact s.extractResult_raisesOnly m
  | add m => exact s.addResult_raisesOnly m
  | xor m => exact s.xorResult_raisesOnly m
  | pad | unpad => exact s.cpIn_raisesOnly.map.mono (by simp [listedErrors])
  | digest f => exact s.digestResult_raisesOnly Config.digest f
  | round m => exact s.roundResult_raisesOnly Config.digest m
  | b256Enc => exact s.bytesIn_raisesOnly.map.mono (by simp [listedErrors])
  | b256Dec =>
    exact (s.inVec_raisesOnly.bind fun v _ => b256DecUnits_raisesOnly _ v).mono (by simp [listedErrors])
  | balEnc =>
    exact feistelEnc_raisesOnly (fun hv i _ => hs.balRound_raisesOnly Config.digest hv i)
      (isMask_roundCp Config.digest (fun _ => s.keyCps 0) .sha256)
  | balDec => exact feistelDec_raisesOnly fun hv i _ => hs.balRound_raisesOnly Config.digest hv i
  | mkEnc =>
    exact feistelEnc_raisesOnly (hs.mkRound_raisesOnly Config.digest) (isMask_roundCp Config.digest s.keyCps .sha256)
  | mkDec => exact feistelDec_raisesOnly (hs.mkRound_raisesOnly Config.digest)
  | fpeEnc f => exact hs.fpeEncResult_raisesOnly Config.digest f
  | fpeDec f => exact hs.fpeDecResult_raisesOnly Config.digest f
  | fpeEncStr f => exact hs.fpeEncStrResult_raisesOnly Config.digest f
  | fpeDecStr f => exact hs.fpeDecStrResult_raisesOnly Config.digest f

theorem Good.numberResult_raisesOnly (hs : s.Good) {i : Instr} (hi : commandClass i = some .number) :
    RaisesOnly (listedErrors i) (numberResult s i) := by
  cases i with
  | numEnc w => exact s.numResult_raisesOnly (hs.fpeEncrypt_raisesOnly Config.digest)
  | numDec w => exact s.numResult_raisesOnly (hs.fpeDecrypt_raisesOnly Config.digest)
  | _ => cases hi

end State

/-- Every output command can end with 0xE2 (spec R85, R172; for UNPAD log 25). -/
theorem capacityOut_mem_listedErrors {i : Instr} (hi : commandClass i = some .output) :
    .capacityOut ∈ listedErrors i := by
  cases i with
  | nop | configureBal | configureMk | configureFpe | numEnc _ | numDec _ => cases hi
  | extract o | fpeDec o | fpeDecStr o => cases o <;> simp [listedErrors]
  | _ => simp [listedErrors]

/-- Settles O21: by `exec_inv_of_err` the code is that of the command's result or check, or 0xE2; each check raises only
its own codes, and a latched configuration keeps the key and the engine from raising theirs. -/
theorem commandsRaiseOnlyTheirListedErrors : Obligations.CommandsRaiseOnlyTheirListedErrors := by
  unfold Obligations.CommandsRaiseOnlyTheirListedErrors
  intro i s t hs h0 h h1
  rcases exec_inv_of_err h h0 h1 with ⟨hc, e, he, rfl⟩ | ⟨hc, e, he, rfl⟩ | ⟨-, v, hv, e, he, rfl⟩
  · refine ⟨e, ?_, rfl⟩
    rcases he with he | rfl
    · exact hs.outputResult_raisesOnly i e he
    · exact capacityOut_mem_listedErrors hc
  · exact ⟨e, hs.numberResult_raisesOnly hc e he, rfl⟩
  · refine ⟨e, ?_, rfl⟩
    rcases hv with ⟨rfl, rfl⟩ | ⟨rfl, rfl⟩ | ⟨rfl, rfl⟩
    · exact s.checkBal_raisesOnly e he
    · exact s.checkMk_raisesOnly e he
    · exact s.checkFpe_raisesOnly e he

end Sys2Proof.Machine

/-! # What every command keeps, and the end of a pending command (spec R197 to R199, R205) -/

namespace Sys2Proof.Machine

/-! ## The frame of a command (spec R52, R198, R199) -/

/-- Settles O18: no completion writes an operand. -/
theorem commandsNeverWriteTheirOperands : Obligations.CommandsNeverWriteTheirOperands := by
  unfold Obligations.CommandsNeverWriteTheirOperands
  intro i s t h
  rcases exec_inv h with ⟨-, rfl⟩ | ⟨-, ⟨v, -, -, rfl⟩ | ⟨e, rfl⟩⟩ | ⟨-, ⟨y, w, -, rfl⟩ | ⟨e, rfl⟩⟩ |
    ⟨-, ⟨v, -, -, rfl⟩ | ⟨e, rfl⟩⟩ <;>
  exact ⟨rfl, rfl, rfl, rfl, rfl, rfl, rfl, rfl, rfl, rfl, rfl, rfl, rfl, rfl, rfl, rfl,
    fun _ _ => rfl, fun _ => rfl, rfl, rfl, rfl, rfl⟩

/-- Settles O19: each completion writes the results of its own class alone. -/
theorem commandClassesKeepOtherResults : Obligations.CommandClassesKeepOtherResults := by
  unfold Obligations.CommandClassesKeepOtherResults
  intro i s t h
  rcases exec_inv h with ⟨-, rfl⟩ | ⟨hc, ht⟩ | ⟨hc, ht⟩ | ⟨hc, ht⟩
  · exact ⟨fun _ => ⟨rfl, fun _ => rfl⟩, fun _ => ⟨rfl, rfl, rfl⟩, fun _ => ⟨rfl, rfl⟩⟩
  · rcases ht with ⟨v, -, -, rfl⟩ | ⟨e, rfl⟩ <;>
    exact ⟨(absurd hc ·), fun _ => ⟨rfl, rfl, rfl⟩, fun _ => ⟨rfl, rfl⟩⟩
  · rcases ht with ⟨y, w, -, rfl⟩ | ⟨e, rfl⟩ <;>
    exact ⟨fun _ => ⟨rfl, fun _ => rfl⟩, (absurd hc ·), fun _ => ⟨rfl, rfl⟩⟩
  · rcases ht with ⟨v, -, -, rfl⟩ | ⟨e, rfl⟩ <;>
    exact ⟨fun _ => ⟨rfl, fun _ => rfl⟩, fun _ => ⟨rfl, rfl, rfl⟩, (absurd hc ·)⟩

/-! ## KEYSEL and the cipher commands (spec R197) -/

section

variable {s t : State} {i : Instr} (k : BitVec 8)

/-- The completion of an output command does not look at KEYSEL and keeps it. -/
theorem State.finishOutput_withKeySel {r : Except ErrCode Units} (h : s.finishOutput r = .next t) :
    State.finishOutput { s with keySel := k } r = .next { t with keySel := k } := by
  rcases s.finishOutput_cases r with ⟨v, rfl, hv, hf⟩ | ⟨v, rfl, hv, hf⟩ | ⟨e, rfl, hf⟩
  all_goals obtain rfl := Host.Outcome.next.inj (h.symm.trans hf)
  · exact finishOutput_ok (s := { s with keySel := k }) hv
  · exact finishOutput_full (s := { s with keySel := k }) hv
  · rfl

theorem State.finishNumber_withKeySel {r : Except ErrCode (Nat × Nat)} (h : s.finishNumber r = .next t) :
    State.finishNumber { s with keySel := k } r = .next { t with keySel := k } := by
  rcases s.finishNumber_cases r with ⟨y, w, rfl, hf⟩ | ⟨e, rfl, hf⟩
  all_goals
    obtain rfl := Host.Outcome.next.inj (h.symm.trans hf)
    rfl

/-- An output command whose result does not depend on KEYSEL. -/
theorem exec_output_withKeySel (hc : commandClass i = some .output)
    (hr : outputResult { s with keySel := k } i = outputResult s i) (h : exec i s = .next t) :
    exec i { s with keySel := k } = .next { t with keySel := k } := by
  rw [exec_output hc] at h ⊢
  rw [hr]
  exact State.finishOutput_withKeySel k h

theorem exec_number_withKeySel (hc : commandClass i = some .number)
    (hr : numberResult { s with keySel := k } i = numberResult s i) (h : exec i s = .next t) :
    exec i { s with keySel := k } = .next { t with keySel := k } := by
  rw [exec_number hc] at h ⊢
  rw [hr]
  exact State.finishNumber_withKeySel k h

end

/-- Settles O23: the ciphers take their keys by slot number, so no result depends on KEYSEL, and no completion
writes it. -/
theorem ciphersIgnoreKeySel : Obligations.CiphersIgnoreKeySel := by
  unfold Obligations.CiphersIgnoreKeySel
  intro s t k f w
  simp only [List.forall_mem_cons]
  exact ⟨exec_output_withKeySel k rfl rfl, exec_output_withKeySel k rfl rfl, exec_output_withKeySel k rfl rfl,
    exec_output_withKeySel k rfl rfl, exec_output_withKeySel k rfl rfl, exec_output_withKeySel k rfl rfl,
    exec_output_withKeySel k rfl rfl, exec_output_withKeySel k rfl rfl, exec_number_withKeySel k rfl rfl,
    exec_number_withKeySel k rfl rfl, nofun⟩

/-! ## Runs with a command pending (spec R190, R205) -/

/-- A run that begins with a fault. -/
theorem run_fault {s : State} {r : Fault} (h : step s = .fault r) (k : Nat) :
    Host.Core.run Sys2Proof.core (k + 1) s = .fault r := by
  simp only [Host.Core.run]
  rw [show Sys2Proof.core.step s = .fault r from h]

/-- An event that meets no fault but that of a read outside the window, which only a `readout` can bring about: `out` is
that there is one (spec R59, R62; log 16). -/
def Params.Admits (p : Params) (out : Prop) : HostOp → Prop
  | .read a n => (n = 4 ∧ a % 4 = 0) ∧ (p.base ≤ a ∧ a < p.base + 0x10000 ∨ out)
  | .write a n _ => (n = 4 ∧ a % 4 = 0) ∧ p.base ≤ a ∧ a < p.base + 0x10000
  | .readOut => p.base % 4 = 0 ∧ out
  | .wait | .rst _ => True

/-- The events of `q` before the first `wait` are such events. -/
def Params.AdmitsQueue (p : Params) (out : Prop) (q : List HostOp) : Prop :=
  ∀ op ∈ q.takeWhile (· != .wait), p.Admits out op

namespace Params.AdmitsQueue

variable {p : Params} {out : Prop} {op : HostOp} {q : List HostOp}

theorem append {l : List HostOp} (hl : ∀ op ∈ l, op ≠ .wait ∧ p.Admits out op) (hq : p.AdmitsQueue out q) :
    p.AdmitsQueue out (l ++ q) := by
  intro op hop
  rw [List.takeWhile_append_of_pos fun x hx => bne_iff_ne.mpr (hl x hx).1] at hop
  rcases List.mem_append.mp hop with hop | hop
  · exact (hl op hop).2
  · exact hq op hop

theorem cons_iff (h : op ≠ .wait) : p.AdmitsQueue out (op :: q) ↔ p.Admits out op ∧ p.AdmitsQueue out q := by
  rw [AdmitsQueue, List.takeWhile_cons_of_pos (p := (· != HostOp.wait)) (bne_iff_ne.mpr h)]
  exact List.forall_mem_cons

end Params.AdmitsQueue

namespace State

variable {s t : State} {out : Prop}

theorem admitsQueue_of_queueAdmitted (h : s.queueAdmitted) :
    s.params.AdmitsQueue (HostOp.readOut ∈ s.hostQueue) s.hostQueue := by
  intro op hop
  have hadmitted := h op hop
  cases op with
  | read a n =>
    simp only [inWindow, admitted, Bool.and_eq_true, decide_eq_true_eq, beq_iff_eq] at hadmitted
    exact ⟨hadmitted.2, .inl hadmitted.1⟩
  | write a n v =>
    simp only [inWindow, admitted, Bool.and_eq_true, decide_eq_true_eq, beq_iff_eq] at hadmitted
    exact ⟨hadmitted.2, hadmitted.1⟩
  | readOut => exact ⟨hadmitted, (List.takeWhile_sublist _).subset hop⟩
  | wait | rst b => trivial

/-- A command is pending with `rst` released, at most `d` further events come before the ENGINE's step, and those in the
queue meet no fault but that of a `readout`. -/
structure Awaits (s : State) (out : Prop) (d : Nat) : Prop where
  busy : s.status.busy = true
  released : s.rst = false
  delay : s.engineDelay = d
  admits : s.params.AdmitsQueue out s.hostQueue

/-- All that `State.Awaits` speaks of. -/
def pendingView (s : State) : Bool × Bool × Nat × Params × List HostOp :=
  (s.status.busy, s.rst, s.engineDelay, s.params, s.hostQueue)

theorem Awaits.of_view {d : Nat} (h : s.Awaits out d) (ht : t.pendingView = s.pendingView) : t.Awaits out d := by
  simp only [pendingView, Prod.mk.injEq] at ht
  obtain ⟨hb, hr, hd, hp, hq⟩ := ht
  exact ⟨hb.trans h.busy, hr.trans h.released, hd.trans h.delay, by rw [hp, hq]; exact h.admits⟩

theorem pendingView_hostRead (s : State) (off : Nat) : (s.hostRead off).pendingView = s.pendingView := by
  obtain ⟨w, h | h⟩ := s.hostRead_cases off <;> rw [h] <;> rfl

/-- While busy a write is a soft reset, or it leaves the command pending (spec R44, R192). -/
theorem hostWrite_busy_or_pendingView (hb : s.status.busy = true) (off : Nat) (v : Word) :
    (s.hostWrite off v).status.busy = false ∨ (s.hostWrite off v).pendingView = s.pendingView := by
  show (s.busWrite (s.target off) v).status.busy = false ∨ (s.busWrite (s.target off) v).pendingView = s.pendingView
  rcases s.busWrite_cases (s.target off) v with ⟨-, e⟩ | ⟨-, e⟩ | ⟨r, -, -, -, e⟩ | ⟨r, -, -, hidle, -⟩ |
    ⟨k, j, -, -, e⟩ | ⟨k, j, -, hidle, -⟩ | ⟨j, -, -, e⟩ | ⟨j, -, hidle, -⟩ | e
  case inl =>
    rw [e]
    unfold writeCtrl
    split
    · exact .inl rfl
    · exact .inr rfl
  case inr.inr.inr.inl | inr.inr.inr.inr.inr.inl | inr.inr.inr.inr.inr.inr.inr.inl =>
    exact absurd (hidle.symm.trans hb) Bool.false_ne_true
  all_goals
    rw [e]
    exact .inr rfl

/-- The reads a `readout` puts into the queue are aligned, in the window or not (spec R80; log 16). -/
theorem admits_readObufOp {p : Params} (h4 : p.base % 4 = 0) (hout : out) (j : Nat) :
    readObufOp p.base j ≠ .wait ∧ p.Admits out (readObufOp p.base j) :=
  ⟨nofun, ⟨rfl, by omega⟩, .inr hout⟩

theorem Awaits.hostReadOut {d : Nat} (h : s.Awaits out d) (h4 : s.params.base % 4 = 0) (hout : out) :
    s.hostReadOut.Awaits out d := by
  rw [hostReadOut_busy h.busy]
  refine ⟨h.busy, h.released, h.delay, .append (fun op hop => ?_) h.admits⟩
  obtain ⟨j, -, rfl⟩ := List.mem_map.mp hop
  exact admits_readObufOp h4 hout j

/-- The outcome `o` of a step with a command pending: it is pending no more, or still pending with `d` events that can
come, or the run has left the window. -/
def Advances (out : Prop) (d : Nat) (o : Outcome) : Prop :=
  (∃ t : State, o = .next t ∧ (t.status.busy = false ∨ t.Awaits out d)) ∨ out ∧ o = .fault .outsideWindow

/-- An event other than `wait`, taken from the queue of a pending command. -/
theorem Awaits.hostEvent {d : Nat} (h : s.Awaits out d) {op : HostOp} (hw : op ≠ .wait) (hop : s.params.Admits out op) :
    Advances out d (s.hostEvent op) := by
  cases op with
  | read a n =>
    obtain ⟨⟨rfl, h4⟩, hin⟩ := hop
    by_cases hwindow : s.params.base ≤ a ∧ a < s.params.base + 0x10000
    · exact .inl ⟨_, access_ok h.released hwindow.1 hwindow.2 h4, .inr (h.of_view (s.pendingView_hostRead _))⟩
    · exact .inr ⟨hin.resolve_left hwindow, access_outsideWindow _ _ h.released hwindow⟩
  | write a n v =>
    obtain ⟨⟨rfl, h4⟩, hlow, hhigh⟩ := hop
    exact .inl ⟨_, access_ok (p := (s.hostWrite · v)) h.released hlow hhigh h4,
      (hostWrite_busy_or_pendingView h.busy _ v).imp_right h.of_view⟩
  | wait => exact absurd rfl hw
  | readOut =>
    obtain ⟨h4, hout⟩ := hop
    exact .inl ⟨_, hostEvent_readOut h.released, .inr (h.hostReadOut h4 hout)⟩
  | rst level =>
    cases level with
    | true => exact .inl ⟨_, rfl, .inl rfl⟩
    | false => exact .inl ⟨_, rfl, .inr (h.of_view (by rw [pendingView, pendingView, h.released]))⟩

end State

/-- A turn of a `wait` loop reads STATUS (spec R79). -/
theorem step_wait {s : State} {q : List HostOp} (hr : s.rst = false) (hq : s.hostQueue = .wait :: q)
    (h : s.status.busy = false ∨ s.engineDelay ≠ 0) :
    step s = .next (State.hostWait { s with hostQueue := q, engineDelay := s.engineDelay - 1 }) :=
  (step_event hq h).trans (State.hostEvent_wait hr)

/-- While a command is pending the loop comes again. -/
theorem step_wait_busy {s : State} {q : List HostOp} (hb : s.status.busy = true) (hr : s.rst = false)
    (hd : s.engineDelay ≠ 0) (hq : s.hostQueue = .wait :: q) :
    step s = .next { s with
      engineDelay := s.engineDelay - 1, hostLog := .data s.status.word :: s.hostLog } := by
  rw [step_wait hr hq (.inr hd), State.hostWait_eq]
  simp [hb, hq]

/-- Once idle the loop is over with its next turn. -/
theorem step_wait_idle {s : State} {q : List HostOp} (hb : s.status.busy = false) (hr : s.rst = false)
    (hq : s.hostQueue = .wait :: q) :
    step s = .next { s with
      hostQueue := q, engineDelay := s.engineDelay - 1, hostLog := .data s.status.word :: s.hostLog } := by
  rw [step_wait hr hq (.inl hb), State.hostWait_eq]
  simp [hb]

/-- Where the ENGINE's step may still wait, the next step brings it one event nearer. -/
theorem State.Awaits.advances {s : State} {out : Prop} {d : Nat} (h : s.Awaits out (d + 1)) :
    Advances out d (step s) := by
  rcases hq : s.hostQueue with _ | ⟨op, q⟩
  · obtain ⟨t, ht, hb, -⟩ := s.engineStep_completes
    exact .inl ⟨t, (step_engine h.busy (.inr hq)).trans ht, .inl hb⟩
  have hd : s.engineDelay ≠ 0 := by simp [h.delay]
  by_cases hop : op = .wait
  · subst hop
    exact .inl ⟨_, step_wait_busy h.busy h.released hd hq,
      .inr ⟨h.busy, h.released, congrArg (· - 1) h.delay, h.admits⟩⟩
  · have hadmits := h.admits
    rw [hq, Params.AdmitsQueue.cons_iff hop] at hadmits
    rw [step_event hq (.inr hd)]
    exact State.Awaits.hostEvent (s := { s with hostQueue := q, engineDelay := s.engineDelay - 1 })
      ⟨h.busy, h.released, congrArg (· - 1) h.delay, hadmits.2⟩ hop hadmits.1

/-- After `k` steps no command is pending, or the run has left the window. -/
def State.EndsAfter (s : State) (out : Prop) (k : Nat) : Prop :=
  (∃ t : State, Host.Core.run Sys2Proof.core k s = .next t ∧ t.status.busy = false) ∨
    (out ∧ Host.Core.run Sys2Proof.core k s = .fault .outsideWindow)

theorem State.EndsAfter.succ {s t : State} {out : Prop} {k : Nat} (hstep : step s = .next t) (h : t.EndsAfter out k) :
    s.EndsAfter out (k + 1) := by
  unfold State.EndsAfter
  rw [run_succ hstep]
  exact h

theorem State.endsAfter_zero {s : State} {out : Prop} (hb : s.status.busy = false) : s.EndsAfter out 0 :=
  .inl ⟨s, run_zero s, hb⟩

/-- By induction on the events that can still come before the ENGINE's step. -/
theorem State.Awaits.endsAfter {s : State} {out : Prop} {d : Nat} (h : s.Awaits out d) :
    ∃ k ≤ d + 1, s.EndsAfter out k := by
  induction d generalizing s with
  | zero =>
    obtain ⟨t, ht, hb, -⟩ := s.engineStep_completes
    exact ⟨1, le_rfl, .succ ((step_engine h.busy (.inl h.delay)).trans ht) (State.endsAfter_zero hb)⟩
  | succ d ih =>
    rcases h.advances with ⟨t, hstep, hb | ht⟩ | ⟨hout, hstep⟩
    · exact ⟨1, by omega, .succ hstep (State.endsAfter_zero hb)⟩
    · obtain ⟨k, hk, hend⟩ := ih ht
      exact ⟨k + 1, by omega, hend.succ hstep⟩
    · exact ⟨1, by omega, .inr ⟨hout, run_fault hstep 0⟩⟩

/-- Settles O26: the state awaits the ENGINE's step, which each event brings nearer (`State.Awaits.endsAfter`). -/
theorem pendingCommandEnds : Obligations.PendingCommandEnds := by
  unfold Obligations.PendingCommandEnds
  intro s hb hr hq
  exact State.Awaits.endsAfter ⟨hb, hr, rfl, State.admitsQueue_of_queueAdmitted hq⟩

/-- The loop's last turn. -/
theorem run_wait_idle {s : State} {q : List HostOp} (hb : s.status.busy = false) (hr : s.rst = false)
    (hq : s.hostQueue = .wait :: q) : ∃ t : State,
      Host.Core.run Sys2Proof.core 1 s = .next t ∧ t.hostQueue = q ∧ t.status.busy = false :=
  ⟨_, (run_succ (step_wait_idle hb hr hq) 0).trans (run_zero _), rfl, hb⟩

/-- A `wait` loop on a busy FRE, by induction on the events that can still come before the ENGINE's step. -/
theorem run_wait_busy {d : Nat} {s : State} {q : List HostOp} (hb : s.status.busy = true) (hr : s.rst = false)
    (hd : s.engineDelay = d) (hq : s.hostQueue = .wait :: q) : ∃ k ≤ d + 2, ∃ t : State,
      Host.Core.run Sys2Proof.core k s = .next t ∧ t.hostQueue = q ∧ t.status.busy = false := by
  induction d generalizing s with
  | zero =>
    obtain ⟨t, ht, hidle, -, htq, htr, -⟩ := s.engineStep_completes
    obtain ⟨u, hrun, hu⟩ := run_wait_idle hidle (htr.trans hr) (htq.trans hq)
    exact ⟨2, le_rfl, u, (run_succ ((step_engine hb (.inl hd)).trans ht) 1).trans hrun, hu⟩
  | succ d ih =>
    have hstep := step_wait_busy hb hr (by simp [hd]) hq
    obtain ⟨k, hk, u, hrun, hu⟩ := ih (s := { s with
      engineDelay := s.engineDelay - 1, hostLog := .data s.status.word :: s.hostLog }) hb hr (congrArg (· - 1) hd) hq
    exact ⟨k + 1, by omega, u, (run_succ hstep k).trans hrun, hu⟩

/-- Settles O27: on an idle FRE by the loop's next turn, on a busy one by `run_wait_busy`. -/
theorem waitLoopTerminates : Obligations.WaitLoopTerminates := by
  unfold Obligations.WaitLoopTerminates
  intro s q hr hq
  cases hb : s.status.busy with
  | false => exact ⟨1, by omega, run_wait_idle hb hr hq⟩
  | true => exact run_wait_busy hb hr rfl hq

end Sys2Proof.Machine
